-- ==== Sys2Proof/Word.lean ====
section
/-! DEFINITION. The unit of both streams (R12, R36) and the nine window registers as a type (R17). -/

namespace Sys2Proof

/-- A byte: 8 bits, 0x00 to 0xFF (R12). -/
abbrev Byte := BitVec 8

/-- The window registers `W[0]` to `W[8]`: nine registers of 8 bits, no aliases, none hardwired (R17). -/
structure Window where
  w0 : Byte
  w1 : Byte
  w2 : Byte
  w3 : Byte
  w4 : Byte
  w5 : Byte
  w6 : Byte
  w7 : Byte
  w8 : Byte
deriving DecidableEq, Repr

end Sys2Proof
end

