-- ==== Sys2Proof/Config.lean ====
section
/-! DEFINITION. The configuration record `Cfg` (R7 to R11, R29) and the free values: constants with no body, for what
the spec leaves without a value. The standard values of `Cfg` and its well-formedness are in Machine/Standard.lean. -/

namespace Sys2Proof

/-- The name of a row of `CMD_TABLE`: the five supported commands (R10, R49). -/
inductive CmdName where
  | softReset
  | hardReset
  | setFrameRate
  | setBaudRate
  | saveSettings
deriving DecidableEq, Repr

/-- The entries of one row of `CMD_TABLE` that are parameters (R10): all of them but the parameter's width. -/
structure CmdEntry where
  opcodeByte : Byte
  commandLength : Nat
  replyLength : Nat
  paramOffset : Nat
  /-- true for the "device-acknowledging commands (reset-family, save)" -/
  ack : Bool
deriving DecidableEq, Repr

/-- `CommandDescriptor` (R29): the row's entries and its `param_width`. -/
structure Descriptor extends CmdEntry where
  paramWidth : Nat
deriving DecidableEq, Repr

/-- "The parameter widths 2 and 4 and the set of five commands are from the source": no parameters (R10, R49). -/
def CmdName.paramWidth : CmdName → Nat
  | .softReset => 0
  | .hardReset => 0
  | .setFrameRate => 2
  | .setBaudRate => 4
  | .saveSettings => 0

/-- `CMD_TABLE` (R10, R29, R49). -/
structure CmdTable where
  softReset : CmdEntry
  hardReset : CmdEntry
  setFrameRate : CmdEntry
  setBaudRate : CmdEntry
  saveSettings : CmdEntry
deriving DecidableEq, Repr

/-- The parameters of the source's host software (R106, R109, R110, R113, R114). -/
structure DriverCfg where
  retryIntervalMs : Nat
  offlineTimeoutMs : Nat
  offlineTimeoutGraceMs : Nat
  wakeGraceMs : Nat
  errorWindowMs : Nat
  retryResetOnEveryTimeout : Bool
deriving DecidableEq, Repr

/-- `Cfg`: constant for the life of the block (R16). `BAUD` and `IDLE_WAIT` are not modelled (R11). -/
structure Cfg where
  hdr0 : Byte
  hdr1 : Byte
  cmdLead : Byte
  frameDeadlineMs : Nat
  replyDeadlineMs : Nat
  table : CmdTable
  failFlagOffset : Nat
  tempShiftArith : Bool
  nowWidth : Nat
  /-- `RXQ_DEPTH`; `none` is the default "unbounded" (R11, D14) -/
  rxqDepth : Option Nat
  driver : DriverCfg
deriving DecidableEq, Repr

/-- Free value: register `i` of the window after the `k`-th free event, a reset (R34: `W` unspecified; log entry 6). -/
opaque Config.resetByte : Nat → Nat → Byte

/-- Free value: `N` (0), `LEN` (1), `T0` (2), `CUR` (3) after a reset, before reduction to the register's range (R34; log entry 6). -/
opaque Config.resetNat : Nat → Nat → Nat

/-- Free value: the contents of `RXQ` after a reset, "any byte sequence" (R34; log entry 6). -/
opaque Config.resetRxq : Nat → List Byte

/-- Free value: the contents of a finite `RXQ` after a byte arrived while it was full (U4; log entry 10). -/
opaque Config.overflowRxq : Nat → List Byte

/-- Free value: a time field of the host's `HealthContext` after a restart (N12; log entry 20). -/
opaque Config.resetTime : Nat → Nat → Option Nat

/-- Free value: whether the error-rate tracker emits the report its window allows (N14; log entry 24). -/
opaque Config.reportsNow : Nat → Bool

/-- Free value: whether PublicationGate publishes a reading handed to it (N13; log entry 24). -/
opaque Config.gatePublishes : Nat → Bool

end Sys2Proof
end

