-- ==== Sys2Proof/Machine/Operands.lean ====
section
/-! DEFINITION. Operand forms: how numbers are assembled from bytes and bytes from numbers (R12, R40, R56), the
checksum (R53), the window registers by index (R17, R61), the rows of `CMD_TABLE` (R49), ENCODE (R76) and the
time difference (R130). -/

namespace Sys2Proof

/-- `u16le(lo, hi) = lo + 256*hi` (R12). -/
def u16le (lo hi : Byte) : Nat := lo.toNat + 256 * hi.toNat

/-- The unsigned little-endian value of a byte sequence (R12, R40); `u16le` and `u32le` are its two- and four-byte cases. -/
def uLE : List Byte → Nat
  | [] => 0
  | b :: rest => b.toNat + 256 * uLE rest

/-- `s16(v)`: the two's complement reading of `v` in 0 to 65535 (R12). -/
def s16 (v : Nat) : Int := if v < 32768 then (v : Int) else (v : Int) - 65536

/-- `low8(v) = v mod 256` as a byte (R12). -/
def low8 (v : Nat) : Byte := BitVec.ofNat 8 v

/-- `bytes_le(v, w)`: byte `i` is `(v >> 8i) mod 256` (R12). -/
def bytesLE (v : Nat) : Nat → List Byte
  | 0 => []
  | w + 1 => low8 v :: bytesLE (v / 256) w

/-- `CKSUM(s) = low8(s[0] + ... + s[m-1])`, 0 on the empty sequence (R53). -/
def cksum (s : List Byte) : Byte := low8 (s.map BitVec.toNat).sum

/-- Byte `f[i]` of a frame; an index past its end reads 0x00 and is reached by no rule. -/
def byteAt (f : List Byte) (i : Nat) : Byte := f.getD i 0

/-- A frame `f` of length `n` is checksum-valid when `f[n-1] = CKSUM(f[0..n-2])` (R53). -/
def cksumValid (f : List Byte) : Bool := !f.isEmpty && f.getLastD 0 == cksum f.dropLast

/-- `FRAME_LEN = 9` (R7). -/
def frameLen : Nat := 9

/-- Window register `W[i]` (R17); there is no register past index 8. -/
def Window.reg (w : Window) : Nat → Byte
  | 0 => w.w0
  | 1 => w.w1
  | 2 => w.w2
  | 3 => w.w3
  | 4 => w.w4
  | 5 => w.w5
  | 6 => w.w6
  | 7 => w.w7
  | 8 => w.w8
  | _ => 0

/-- The window whose register `i` is `f i`. -/
def Window.ofFn (f : Nat → Byte) : Window := ⟨f 0, f 1, f 2, f 3, f 4, f 5, f 6, f 7, f 8⟩

/-- `W[0..8] <- 0x00` (R62, R77). -/
def Window.zero : Window := Window.ofFn fun _ => 0

/-- `W[0..len-1]`, the part of the window in use (R17, R87). -/
def Window.bytes (w : Window) (len : Nat) : List Byte := (List.range len).map w.reg

/-- The window part of SHIFT, all registers at once (R61): `W[i] <- W[i+1]` below `len-1`, `W[len-1] <- b`, the rest untouched. -/
def Window.shift (w : Window) (len : Nat) (b : Byte) : Window :=
  Window.ofFn fun i => if i + 1 < len then w.reg (i + 1) else if i + 1 = len then b else w.reg i

/-- The entries of row `c`. -/
def CmdTable.entry (t : CmdTable) : CmdName → CmdEntry
  | .softReset => t.softReset
  | .hardReset => t.hardReset
  | .setFrameRate => t.setFrameRate
  | .setBaudRate => t.setBaudRate
  | .saveSettings => t.saveSettings

/-- `CMD_TABLE[c]` (R77). -/
def CmdTable.row (t : CmdTable) (c : CmdName) : Descriptor := { t.entry c with paramWidth := c.paramWidth }

/-- `CMD_TABLE[c]` of a configuration. -/
def Cfg.row (cfg : Cfg) (c : CmdName) : Descriptor := cfg.table.row c

/-- The five names, in the table's order (R49). -/
def cmdNames : List CmdName := [.softReset, .hardReset, .setFrameRate, .setBaudRate, .saveSettings]

/-- `body` of ENCODE: `[CMD_LEAD, d.command_length, d.opcode_byte] ++ bytes_le(p, d.param_width)` (R76). -/
def commandBody (cfg : Cfg) (d : Descriptor) (p : Nat) : List Byte :=
  [cfg.cmdLead, low8 d.commandLength, d.opcodeByte] ++ bytesLE p d.paramWidth

/-- `ENCODE(d, p)` (R76): the body and its checksum. With `param_width = 0` the parameter is ignored (D17). -/
def encodeCommand (cfg : Cfg) (d : Descriptor) (p : Nat) : List Byte :=
  commandBody cfg d p ++ [cksum (commandBody cfg d p)]

/-- The nine bytes of an M9 frame (R51). -/
def measBytes (cfg : Cfg) (dist strength temp : BitVec 16) (ck : Byte) : List Byte :=
  [cfg.hdr0, cfg.hdr1] ++ bytesLE dist.toNat 2 ++ bytesLE strength.toNat 2 ++ bytesLE temp.toNat 2 ++ [ck]

/-- The bytes of a reply frame: `CMD_LEAD`, its own length `L`, `f[2..L-2]`, checksum (R55). -/
def replyBytes (cfg : Cfg) (body : List Byte) (ck : Byte) : List Byte :=
  [cfg.cmdLead, low8 (body.length + 3)] ++ body ++ [ck]

/-- `(now - t) mod 2^width`: the milliseconds from `t` to `now` on a clock of `width` bits (R130). -/
def timeSince (width now t : Nat) : Nat := (now + (2 ^ width - t % 2 ^ width)) % 2 ^ width

end Sys2Proof
end

