-- ==== Sys2Proof/Machine/Standard.lean ====
section
/-! DEFINITION. The standard instance of `Cfg` (the defaults of R8 to R11 and R49) and the well-formedness of a
configuration (R30). -/

namespace Sys2Proof

/-- Default contents of `CMD_TABLE` (R49). -/
def CmdTable.standard : CmdTable where
  softReset := ⟨0x02, 4, 5, 3, true⟩
  hardReset := ⟨0x10, 4, 5, 3, true⟩
  setFrameRate := ⟨0x03, 6, 6, 3, false⟩
  setBaudRate := ⟨0x06, 8, 8, 3, false⟩
  saveSettings := ⟨0x11, 4, 5, 3, true⟩

/-- Default durations of the host software (R150) and the default of R110. -/
def DriverCfg.standard : DriverCfg where
  retryIntervalMs := 60000
  offlineTimeoutMs := 1000
  offlineTimeoutGraceMs := 5000
  wakeGraceMs := 5000
  errorWindowMs := 60000
  retryResetOnEveryTimeout := true

/-- The standard instance (R8, R9, R11). The marker, opcode, length and offset values are the spec's defaults
"[from general knowledge, not in source]" (G1 to G6; log entry 9). -/
def Cfg.standard : Cfg where
  hdr0 := 0x59
  hdr1 := 0x59
  cmdLead := 0x5A
  frameDeadlineMs := 150
  replyDeadlineMs := 1000
  table := CmdTable.standard
  failFlagOffset := 3
  tempShiftArith := false
  nowWidth := 32
  rxqDepth := none
  driver := DriverCfg.standard

/-- R30 for one descriptor. -/
def Descriptor.wf (d : Descriptor) (failFlagOffset : Nat) : Bool :=
  d.commandLength == 4 + d.paramWidth &&
  (d.paramWidth == 0 || d.paramOffset + d.paramWidth == d.commandLength - 1) &&
  (d.replyLength == 0 || (3 ≤ d.replyLength && d.replyLength ≤ 9)) &&
  (!d.ack || failFlagOffset + 1 < d.replyLength)

/-- R30 for every row. "A table that breaks one of these is refused by the model when it is built, not given a meaning"
(R30, D26, U5; log entry 8). -/
def Cfg.wf (cfg : Cfg) : Bool := cmdNames.all fun c => (cfg.row c).wf cfg.failFlagOffset

end Sys2Proof
end

