-- ==== Sys2Proof/Syntax.lean ====
section
/-! DEFINITION. The instructions of the block: the eleven frames of spec/opcode_table.json (R59). -/

namespace Sys2Proof

/-- One constructor per row of spec/opcode_table.json.
An inbound frame carries its checksum byte, because a frame with a wrong checksum has a meaning of its own (R67, R93).
An outbound frame does not, because ENCODE computes it (R76).
A reply's `body` is every byte between its length byte and its checksum, `f[2..L-2]` (R55): in format A5 the `op` byte
and the failure flag, in E6 and E8 the `op` byte and the echo of the parameter. -/
inductive Instr where
  /-- `MEAS`, format M9: the measurement frame (R51). The three fields are the 16 bits of the little-endian pairs. -/
  | meas (dist strength temp : BitVec 16) (cksum : Byte)
  /-- `SOFT_RESET`, format C4 (R78). -/
  | softReset
  /-- `HARD_RESET`, format C4 (R79). -/
  | hardReset
  /-- `SET_FRAME_RATE p`, format C6 (R80). -/
  | setFrameRate (p : BitVec 16)
  /-- `SET_BAUD_RATE p`, format C8 (R81). -/
  | setBaudRate (p : BitVec 32)
  /-- `SAVE_SETTINGS`, format C4 (R82). -/
  | saveSettings
  /-- `SOFT_RESET.reply`, format A5 (R96). -/
  | softResetReply (body : List Byte) (cksum : Byte)
  /-- `HARD_RESET.reply`, format A5 (R97). -/
  | hardResetReply (body : List Byte) (cksum : Byte)
  /-- `SET_FRAME_RATE.reply`, format E6 (R98). -/
  | setFrameRateReply (body : List Byte) (cksum : Byte)
  /-- `SET_BAUD_RATE.reply`, format E8 (R99). -/
  | setBaudRateReply (body : List Byte) (cksum : Byte)
  /-- `SAVE_SETTINGS.reply`, format A5 (R100). -/
  | saveSettingsReply (body : List Byte) (cksum : Byte)
deriving DecidableEq, Repr

end Sys2Proof
end

