-- ==== Sys2Proof/WellFormed.lean ====
section
/-! DEFINITION. Well-formed instructions under a configuration: the frames the formats M9, C4, C6, C8, A5, E6, E8
admit (R50, R54, R55). -/

namespace Sys2Proof

/-- A reply body has the bytes `f[2..L-2]` of a reply of the row's length `L`, and the row expects a reply (R55, R58). -/
def bodyFits (cfg : Cfg) (c : CmdName) (body : List Byte) : Bool := body.length + 3 == (cfg.row c).replyLength

/-- Well-formedness of an instruction. Every value of a MEAS field and every checksum byte is well-formed: a wrong
checksum is a frame the block meets and rejects (R57, R67). A command's parameter fits its field by its type (R84, D17). -/
def Instr.wellFormed (cfg : Cfg) : Instr → Bool
  | .meas _ _ _ _ => true
  | .softReset => true
  | .hardReset => true
  | .setFrameRate _ => true
  | .setBaudRate _ => true
  | .saveSettings => true
  | .softResetReply body _ => bodyFits cfg .softReset body
  | .hardResetReply body _ => bodyFits cfg .hardReset body
  | .setFrameRateReply body _ => bodyFits cfg .setFrameRate body
  | .setBaudRateReply body _ => bodyFits cfg .setBaudRate body
  | .saveSettingsReply body _ => bodyFits cfg .saveSettings body

/-- The five opcode bytes differ. R10 makes them parameters and R30 does not ask it, so no meaning depends on it; only under
such a table does a command frame alone name its row ("Commands are told apart outbound by `op`", R59). -/
def Cfg.opcodesDistinct (cfg : Cfg) : Bool := decide (cmdNames.map fun c => (cfg.row c).opcodeByte).Nodup

end Sys2Proof
end

