-- ==== Sys2Proof/Decode.lean ====
section
/-! DEFINITION. The decoder, total on any bytes and rejecting by name, and the encoder, both from 30_encoding.md.
"A decoder for inbound traffic takes the phase and CUR as inputs, not the bytes alone" (R59): that is `Context`. -/

namespace Sys2Proof

/-- What a frame is read as: an outbound command, an inbound frame in F_SYNC, or an inbound frame in R_SYNC while the
reply to a command is awaited (R59). -/
inductive Context where
  | outbound
  | measurement
  | reply (c : CmdName)
deriving DecidableEq, Repr

/-- Why bytes are no frame of the context. None of these traps: inbound, scanning goes on (R57). -/
inductive DecodeError where
  /-- the number of bytes is not the format's (R50, R58) -/
  | wrongLength
  /-- `f[0], f[1]` are not `HDR0, HDR1` (R66) -/
  | wrongHeader
  /-- `f[0]` is not `CMD_LEAD` (R54, R92) -/
  | wrongLead
  /-- `f[1]` is not the table's length (R54, R92) -/
  | wrongLengthByte
  /-- outbound: no row has this opcode byte (R57, R84) -/
  | unknownOpcode
  /-- outbound: the last byte is not the checksum of the others (R53); inbound this is no decode error (R67, R93) -/
  | wrongChecksum
deriving DecidableEq, Repr

/-- The instruction of an outbound command with parameter value `p`. -/
def commandInstr : CmdName → Nat → Instr
  | .softReset, _ => .softReset
  | .hardReset, _ => .hardReset
  | .setFrameRate, p => .setFrameRate (BitVec.ofNat 16 p)
  | .setBaudRate, p => .setBaudRate (BitVec.ofNat 32 p)
  | .saveSettings, _ => .saveSettings

/-- The instruction of an inbound reply. -/
def replyInstr : CmdName → List Byte → Byte → Instr
  | .softReset, body, ck => .softResetReply body ck
  | .hardReset, body, ck => .hardResetReply body ck
  | .setFrameRate, body, ck => .setFrameRateReply body ck
  | .setBaudRate, body, ck => .setBaudRateReply body ck
  | .saveSettings, body, ck => .saveSettingsReply body ck

/-- The row whose opcode byte is `op` (R59: commands are told apart by `op`) and whose frame has `n` bytes. Under a table that
gives two rows of one length the same opcode byte their frames are the same bytes, and the first row stands for them. -/
def Cfg.lookup (cfg : Cfg) (op : Byte) (n : Nat) : Option CmdName :=
  cmdNames.find? fun c => (cfg.row c).opcodeByte == op && (cfg.row c).commandLength == n

/-- Some row has the opcode byte `op`. -/
def Cfg.knowsOpcode (cfg : Cfg) (op : Byte) : Bool := cmdNames.any fun c => (cfg.row c).opcodeByte == op

/-- The parameter bytes `f[param_offset .. param_offset + param_width - 1]` of a command frame (R54). -/
def paramBytes (d : Descriptor) (f : List Byte) : List Byte := (f.drop d.paramOffset).take d.paramWidth

/-- Formats C4, C6, C8 (R54). -/
def decodeOutbound (cfg : Cfg) (f : List Byte) : Except DecodeError Instr :=
  if f.length < 4 then .error .wrongLength
  else if byteAt f 0 ≠ cfg.cmdLead then .error .wrongLead
  else match cfg.lookup (byteAt f 2) f.length with
    | none => if cfg.knowsOpcode (byteAt f 2) then .error .wrongLength else .error .unknownOpcode
    | some c =>
      if (byteAt f 1).toNat ≠ f.length then .error .wrongLengthByte
      else if cksumValid f = false then .error .wrongChecksum
      else .ok (commandInstr c (uLE (paramBytes (cfg.row c) f)))

/-- The 16 bits of the little-endian pair at `f[i], f[i+1]` (R40, R56). -/
def pairAt (f : List Byte) (i : Nat) : BitVec 16 := BitVec.ofNat 16 (u16le (byteAt f i) (byteAt f (i + 1)))

/-- Format M9 (R51): nine bytes that open with the header pair (R66). The checksum byte is read, not judged (R67). -/
def decodeMeasurement (cfg : Cfg) (f : List Byte) : Except DecodeError Instr :=
  if f.length ≠ frameLen then .error .wrongLength
  else if byteAt f 0 ≠ cfg.hdr0 ∨ byteAt f 1 ≠ cfg.hdr1 then .error .wrongHeader
  else .ok (.meas (pairAt f 2) (pairAt f 4) (pairAt f 6) (byteAt f 8))

/-- Formats A5, E6, E8 (R55): `L` bytes that open with `CMD_LEAD` and the length `L` of the awaited row (R92). The checksum
byte is read, not judged (R93). -/
def decodeReply (cfg : Cfg) (c : CmdName) (f : List Byte) : Except DecodeError Instr :=
  if f.length ≠ (cfg.row c).replyLength ∨ f.length < 3 then .error .wrongLength
  else if byteAt f 0 ≠ cfg.cmdLead then .error .wrongLead
  else if (byteAt f 1).toNat ≠ f.length then .error .wrongLengthByte
  else .ok (replyInstr c ((f.drop 2).dropLast) (f.getLastD 0))

/-- The decoder. It reads exactly the bytes of one frame: every length is known before the first byte is examined (R50, R58). -/
def decode (cfg : Cfg) : Context → List Byte → Except DecodeError Instr
  | .outbound, f => decodeOutbound cfg f
  | .measurement, f => decodeMeasurement cfg f
  | .reply c, f => decodeReply cfg c f

/-- The context in which an instruction's frame is met. -/
def Instr.context : Instr → Context
  | .meas _ _ _ _ => .measurement
  | .softReset => .outbound
  | .hardReset => .outbound
  | .setFrameRate _ => .outbound
  | .setBaudRate _ => .outbound
  | .saveSettings => .outbound
  | .softResetReply _ _ => .reply .softReset
  | .hardResetReply _ _ => .reply .hardReset
  | .setFrameRateReply _ _ => .reply .setFrameRate
  | .setBaudRateReply _ _ => .reply .setBaudRate
  | .saveSettingsReply _ _ => .reply .saveSettings

/-- The encoder, from the same tables (R51, R54, R55). -/
def encode (cfg : Cfg) : Instr → List Byte
  | .meas dist strength temp ck => measBytes cfg dist strength temp ck
  | .softReset => encodeCommand cfg (cfg.row .softReset) 0
  | .hardReset => encodeCommand cfg (cfg.row .hardReset) 0
  | .setFrameRate p => encodeCommand cfg (cfg.row .setFrameRate) p.toNat
  | .setBaudRate p => encodeCommand cfg (cfg.row .setBaudRate) p.toNat
  | .saveSettings => encodeCommand cfg (cfg.row .saveSettings) 0
  | .softResetReply body ck => replyBytes cfg body ck
  | .hardResetReply body ck => replyBytes cfg body ck
  | .setFrameRateReply body ck => replyBytes cfg body ck
  | .setBaudRateReply body ck => replyBytes cfg body ck
  | .saveSettingsReply body ck => replyBytes cfg body ck

/-! The table interface: a row's bits as one number, in the standard instance of `Cfg` (log entries 1 and 2). -/

/-- The `n` bytes of a number, byte 0 of the frame the least significant. -/
def tableBytesLow (n w : Nat) : List Byte := bytesLE w n

/-- The `n` bytes of a number, byte 0 of the frame the most significant: the numbering of the table's `fixed` members. -/
def tableBytesHigh (n w : Nat) : List Byte := (bytesLE w n).reverse

/-- A command frame whose `c` byte the table left at 0 gets its checksum (R59: `c` marks a checksum bit that depends on
the fields and is not expressible in the mask). Every other byte sequence stays as it is. -/
def completeChecksum (cfg : Cfg) (f : List Byte) : List Byte :=
  if f.getLastD 0 = 0 ∧ byteAt f 0 = cfg.cmdLead ∧
      (cmdNames.any fun c => (cfg.row c).paramWidth != 0 && (cfg.row c).commandLength == f.length &&
        (byteAt f 1).toNat == (cfg.row c).commandLength && byteAt f 2 == (cfg.row c).opcodeByte) = true
  then f.dropLast ++ [cksum f.dropLast] else f

/-- Which of the replies with equal match and mask a frame alone suggests: the one whose command's opcode byte stands at
index 2 (G7), else the first row of that length. Inside the machine CUR decides (R59, R101). -/
def replyRow (cfg : Cfg) (f : List Byte) : Option CmdName :=
  match cmdNames.find? fun c => (cfg.row c).replyLength == f.length && (cfg.row c).opcodeByte == byteAt f 2 with
  | some c => some c
  | none => cmdNames.find? fun c => (cfg.row c).replyLength == f.length

/-- The instruction of a frame met without a context: a command, else a measurement frame, else a reply. -/
def decodeAlone (cfg : Cfg) (f : List Byte) : Option Instr :=
  match decode cfg .outbound (completeChecksum cfg f) with
  | .ok i => some i
  | .error _ =>
    match decode cfg .measurement f with
    | .ok i => some i
    | .error _ =>
      match replyRow cfg f with
      | none => none
      | some c =>
        match decode cfg (.reply c) f with
        | .ok i => some i
        | .error _ => none

/-- The instruction the decoder reads from a row's bits `w`, `nbits` of them: numbered as the table's `fixed` members are
(byte 0 most significant), and, where that is no frame, with byte 0 least significant. -/
def decodeTableWord (nbits w : Nat) : Option Instr :=
  if nbits % 8 ≠ 0 then none
  else match decodeAlone Cfg.standard (tableBytesHigh (nbits / 8) w) with
    | some i => some i
    | none => decodeAlone Cfg.standard (tableBytesLow (nbits / 8) w)

end Sys2Proof
end

