-- ==== Sys2Proof/Machine/State.lean ====
section
/-! DEFINITION. The state of the machine as plain data: the block's registers and queues (R17 to R28), its constant
configuration (R16), the host's software (R104), and whose turn is next (R14, R15). -/

namespace Sys2Proof.Machine

/-- `PHASE` (R20): the sequencing state, in the place of a program counter. -/
inductive Phase where
  | idle
  | fSync
  | rSync
deriving DecidableEq, Repr

/-- The anomaly class of a reading (R24). -/
inductive Anomaly where
  | ok
  | weakSignal
  | strongSignal
  | floodLight
deriving DecidableEq, Repr

/-- The reasons of `FrameFail` (R23). -/
inductive FrameReason where
  | headerSyncFailed
  | checksumFailed
deriving DecidableEq, Repr

/-- The results of a command (R23, R86). -/
inductive CmdResult where
  | pass
  | fail
  | checksumFailed
  | timeout
deriving DecidableEq, Repr

/-- `OUT`, the only result port (R23, R24). Reading fields exist only inside `reading`. -/
inductive Out where
  | none
  | reading (distanceCm strength temperatureC : Int) (anomaly : Anomaly)
  | frameFail (reason : FrameReason)
  | cmd (result : CmdResult)
deriving DecidableEq, Repr

/-- A command as a host names it: one of the five, with its operand typed to the parameter's width (R84, D17). -/
inductive Command where
  | softReset
  | hardReset
  | setFrameRate (p : BitVec 16)
  | setBaudRate (p : BitVec 32)
  | saveSettings
deriving DecidableEq, Repr

/-- What the host may ask for (R103). `decode` and `send` are the block's two start operations. The others are the
operations of the source's host software, each made of start operations (R105 to R113, R139). -/
inductive Request where
  | decode
  | send (c : Command)
  /-- one scheduler tick (R105 to R107) -/
  | tick
  /-- `sleep()` (R111) -/
  | sleep
  /-- `wake(frame_rate)` (R113) -/
  | wake (rate : BitVec 16)
  /-- initialisation with its three parameters (R116, R139) -/
  | setup (softResetAtStart : Bool) (rate : BitVec 16) (persist : Bool)
  /-- the host looks at PHASE and, if IDLE, takes the outcome of its operation (R103, R128) -/
  | collect
deriving DecidableEq, Repr

/-- One turn of one agent (R14, R15), or the reset input (R136). -/
inductive Turn where
  /-- one micro-step of the block -/
  | block
  /-- Line-in appends a byte to `RXQ` -/
  | lineIn (b : Byte)
  /-- Clock adds milliseconds to `NOW` -/
  | clock (ms : Nat)
  /-- the host acts -/
  | host (r : Request)
  /-- the reset input -/
  | reset
deriving DecidableEq, Repr

/-- `DeviceState` of the host's health machine (R104). -/
inductive DeviceState where
  | online
  | offline
  | sleeping
deriving DecidableEq, Repr

/-- `StatusCode` (R115, R120): names only, no numbers (D19). The block never produces the last six (R120). -/
inductive StatusCode where
  | ok
  | weakSignal
  | strongSignal
  | floodLight
  | headerSyncFailed
  | checksumFailed
  | timeout
  | pass
  | fail
  | i2cRead
  | i2cWrite
  | i2cLength
  | sleeping
  | offline
  | other
deriving DecidableEq, Repr

/-- What the health machine hands to PublicationGate (R102, R105, R108, R109, R111). -/
inductive GateEvent where
  | reading (distanceCm strength temperatureC : Int) (anomaly : Anomaly)
  | unavailable
deriving DecidableEq, Repr

/-- The host operation whose outcome has not been taken yet (R103). -/
inductive Pending where
  | none
  | read
  | sleep
  | wake
  | setup (rest : List Command)
deriving DecidableEq, Repr

/-- The host's software: DeviceHealthMachine, its `HealthContext`, ErrorRateTracker, and what they hand on (R104 to R114). -/
structure Driver where
  device : DeviceState
  lastGoodFrame : Option Nat
  /-- `none`: the retry back-off is cleared, the next tick in Offline retries (R110, R113; log entry 23) -/
  lastRetry : Option Nat
  wakeGraceDeadline : Option Nat
  errorWindowStart : Option Nat
  errorWindowCount : Nat
  lastErrorLog : Option Nat
  lastReported : Option StatusCode
  publishedUnavailable : Bool
  lastPublished : Option GateEvent
  savedRate : BitVec 16
  pending : Pending
  /-- everything handed to PublicationGate, oldest first -/
  gate : List GateEvent
  /-- every diagnostic report: the count and the most recent status (R114), oldest first -/
  reports : List (Nat × StatusCode)
deriving DecidableEq, Repr

/-- The whole state. -/
structure State where
  /-- `Cfg`: constant, no step writes it (R16; log entry 9) -/
  cfg : Cfg
  /-- `W[0..8]` (R17) -/
  w : Window
  /-- `N` (R18) -/
  n : Nat
  /-- `LEN` (R19) -/
  len : Nat
  /-- `PHASE` (R20) -/
  phase : Phase
  /-- `T0` (R21) -/
  t0 : Nat
  /-- `CUR` (R22), held as the name of its row (log entry 16) -/
  cur : CmdName
  /-- `OUT` (R23) -/
  out : Out
  /-- `RXQ`, oldest byte first (R26) -/
  rxq : List Byte
  /-- `TXQ`, oldest byte first (R27) -/
  txq : List Byte
  /-- `NOW`, below `2^NOW_WIDTH` (R28) -/
  now : Nat
  /-- the host's software (R104) -/
  driver : Driver
  /-- MODEL'S OWN: whose turn is next; with none listed the block moves (log entry 4) -/
  schedule : List Turn
  /-- MODEL'S OWN: numbers the free values taken so far (log entry 6) -/
  free : Nat
deriving DecidableEq, Repr

/-- Why the machine stops with a fault. -/
inductive Fault where
  /-- Raised by every start operation, of the block or of the host's software, while PHASE is not IDLE or another host
  operation waits for its outcome: the host breaks its duty to serialise, and such a host "has no move" (R47, R103, U3).
  Safe: the model stops where the spec defines nothing (log entry 7). -/
  | startWhileBusy
deriving DecidableEq, Repr

/-- Why the machine refuses. -/
inductive Refusal where
  /-- Raised by every start operation of the block when `Cfg` breaks R30: such a table is "refused by the model when it
  is built, not given a meaning" (R30, U5). Safe (log entry 8). -/
  | illFormedTable
  /-- Raised by an arm of `exec` whose instruction has no meaning yet; no arm is left. Safe. -/
  | notModelled (mnemonic : String)
deriving DecidableEq, Repr

/-- The host's software as created at initialisation: `Offline` "awaiting the first frame" (R104); its other fields have
no value in the spec (N12; log entry 20). -/
def Driver.initial : Driver where
  device := .offline
  lastGoodFrame := none
  lastRetry := none
  wakeGraceDeadline := none
  errorWindowStart := none
  errorWindowCount := 0
  lastErrorLog := none
  lastReported := none
  publishedUnavailable := false
  lastPublished := none
  savedRate := 0
  pending := .none
  gate := []
  reports := []

/-- The machine right after reset (R34, R136): `PHASE = IDLE`, `OUT = None`, `TXQ` empty, `DeviceState = Offline`, `Cfg`
its standard instance. The registers R34 calls unspecified, `RXQ` and `NOW` have values the model names (log entry 5). -/
def State.reset : State where
  cfg := Cfg.standard
  w := Window.zero
  n := 0
  len := 9
  phase := .idle
  t0 := 0
  cur := .softReset
  out := .none
  rxq := []
  txq := []
  now := 0
  driver := Driver.initial
  schedule := []
  free := 0

end Sys2Proof.Machine
end

