-- ==== Sys2Proof/Machine/Flags.lean ====
section
/-! DEFINITION. What decides an outcome, as functions of a full window's bytes: the candidate tests (R66, R92), the field
decode and the anomaly class (R68 to R71), the interpretation of a reply (R93 to R95). -/

namespace Sys2Proof.Machine

/-- `DIST(W)` (R68). -/
def distOf (f : List Byte) : Int := s16 (u16le (byteAt f 2) (byteAt f 3))

/-- `STRENGTH(W)` (R69). -/
def strengthOf (f : List Byte) : Int := s16 (u16le (byteAt f 4) (byteAt f 5))

/-- `TEMP` of a raw temperature code: `(raw >> 3) - 256`, logical or, under `TEMP_SHIFT_ARITH`, arithmetic (R70, D8). -/
def tempOfRaw (arith : Bool) (raw : Nat) : Int :=
  if arith then s16 raw / 8 - 256 else ((raw / 8 : Nat) : Int) - 256

/-- `TEMP(W)` (R70). -/
def tempOf (cfg : Cfg) (f : List Byte) : Int := tempOfRaw cfg.tempShiftArith (u16le (byteAt f 6) (byteAt f 7))

/-- `CLASSIFY(d, s)`, in the order of R71 (D7). -/
def classify (d s : Int) : Anomaly :=
  if d = -1 then .weakSignal
  else if s = -1 then .strongSignal
  else if d = -4 then .floodLight
  else .ok

/-- The candidate test of F_SYNC on a full window (R66). -/
def isFrameCandidate (cfg : Cfg) (f : List Byte) : Bool :=
  f.length == frameLen && byteAt f 0 == cfg.hdr0 && byteAt f 1 == cfg.hdr1

/-- The candidate test of R_SYNC on a full window of `len` bytes (R92). -/
def isReplyCandidate (cfg : Cfg) (len : Nat) (f : List Byte) : Bool :=
  f.length == len && byteAt f 0 == cfg.cmdLead && (byteAt f 1).toNat == len

/-- The outcome of a candidate frame (R67, R72). -/
def frameOutcome (cfg : Cfg) (f : List Byte) : Out :=
  if cksumValid f then
    .reading (distOf f) (strengthOf f) (tempOf cfg f) (classify (distOf f) (strengthOf f))
  else .frameFail .checksumFailed

/-- `INTERPRET(CUR, W)` (R94, R95). -/
def interpret (cfg : Cfg) (c : CmdName) (f : List Byte) : CmdResult :=
  if (cfg.row c).ack then (if byteAt f cfg.failFlagOffset = 1 then .fail else .pass) else .pass

/-- The result of a reply candidate (R93). -/
def replyResult (cfg : Cfg) (c : CmdName) (f : List Byte) : CmdResult :=
  if cksumValid f then interpret cfg c f else .checksumFailed

end Sys2Proof.Machine
end

