-- ==== Sys2Proof/Machine/Ops.lean ====
section
/-! DEFINITION. The named operations on the state: the pseudocode primitives (R13), SHIFT (R61), the one way an attempt
ends (R125), the two start steps (R62, R77), the reception of a full window (R57), and what the environment does. -/

namespace Sys2Proof.Machine

/-- What an operation answers. -/
abbrev Answer := Host.Outcome State Fault Refusal

/-- `elapsed() = (NOW - T0) mod 2^NOW_WIDTH` (R130). -/
def State.elapsed (s : State) : Nat := timeSince s.cfg.nowWidth s.now s.t0

/-- `finish(o)`: `OUT <- o; PHASE <- IDLE` (R125). This block's exceptions are the failure outcomes: every one of them, and
every success of an attempt, is taken here. There is no return from one (R127). -/
def State.finish (o : Out) (s : State) : State := { s with out := o, phase := .idle }

/-- `RxPop()`: the head byte of `RXQ` and the state without it; `none` where `RxAvail()` is false (R37). -/
def State.rxPop (s : State) : Option (Byte × State) :=
  match s.rxq with
  | [] => none
  | b :: rest => some (b, { s with rxq := rest })

/-- `RxDrain()`: `RXQ <- empty` (R42). -/
def State.rxDrain (s : State) : State := { s with rxq := [] }

/-- `TxPush(seq)`: `TXQ <- TXQ ++ seq` (R38). -/
def State.txPush (seq : List Byte) (s : State) : State := { s with txq := s.txq ++ seq }

/-- `SHIFT(b)` (R61). -/
def State.shift (b : Byte) (s : State) : State :=
  { s with w := s.w.shift s.len b, n := min (s.n + 1) s.len }

/-- `W[0..LEN-1]` (R87). -/
def State.window (s : State) : List Byte := s.w.bytes s.len

/-- The part the two start steps share: a cleared window of active length `len`, `T0 <- NOW`, `OUT <- None`,
`PHASE <- ph` (R62, R77). -/
def State.beginAttempt (ph : Phase) (len : Nat) (s : State) : State :=
  { s with w := Window.zero, n := 0, len := len, t0 := s.now, out := .none, phase := ph }

/-- A start step is taken only when `PHASE = IDLE` (R47, R103) and `Cfg` is well-formed (R30). -/
def State.start (k : State → State) (s : State) : Answer :=
  if s.phase ≠ .idle then .fault .startWhileBusy
  else if s.cfg.wf = false then .refused .illFormedTable
  else .next (k s)

/-- `DECODE` (R62). -/
def State.decodeStart (s : State) : Answer := s.start (State.beginAttempt .fSync frameLen)

/-- The effect of `SEND c, p` (R77): drain, transmit, then either report `Pass` at once (R83) or await the reply. -/
def State.sendStep (c : CmdName) (p : Nat) (s : State) : State :=
  let d := s.cfg.row c
  let sent := s.rxDrain.txPush (encodeCommand s.cfg d p)
  if d.replyLength = 0 then sent.finish (.cmd .pass)
  else { sent.beginAttempt .rSync d.replyLength with cur := c }

/-- `SEND c, p` (R77). -/
def State.send (c : CmdName) (p : Nat) (s : State) : Answer := s.start (State.sendStep c p)

/-- A full window `f` meets the block, by phase (R57): in F_SYNC a candidate frame ends the attempt (R66, R67); in R_SYNC a
candidate reply ends it (R92, R93), whichever command it answers (R101); anything else changes nothing. -/
def State.receive (f : List Byte) (s : State) : State :=
  match s.phase with
  | .idle => s
  | .fSync => if isFrameCandidate s.cfg f then s.finish (frameOutcome s.cfg f) else s
  | .rSync => if isReplyCandidate s.cfg s.len f then s.finish (.cmd (replyResult s.cfg s.cur f)) else s

/-- Line-in appends `b` to `RXQ` (R14, R26). When a finite `RXQ` is full, what it then holds is a free value (U4; log
entry 10). -/
def State.lineIn (b : Byte) (s : State) : State :=
  match s.cfg.rxqDepth with
  | none => { s with rxq := s.rxq ++ [b] }
  | some d =>
    if s.rxq.length < d then { s with rxq := s.rxq ++ [b] }
    else { s with rxq := (Config.overflowRxq s.free).take d, free := s.free + 1 }

/-- Clock adds `ms` to `NOW` (R28, R60: mod `2^NOW_WIDTH`). -/
def State.clock (ms : Nat) (s : State) : State := { s with now := (s.now + ms) % 2 ^ s.cfg.nowWidth }

/-- The host's software after a restart: `Offline`, no wake grace (R104, R136, R139); its other time fields are free (N12). -/
def Driver.restarted (k : Nat) : Driver :=
  { Driver.initial with
    lastGoodFrame := Config.resetTime k 0
    lastRetry := Config.resetTime k 1
    errorWindowStart := Config.resetTime k 2
    lastErrorLog := Config.resetTime k 3 }

/-- A row name out of a number. -/
def cmdOfNat (k : Nat) : CmdName := cmdNames.getD (k % 5) .softReset

/-- The reset input, effective in any phase (R136, D32): `PHASE = IDLE`, `OUT = None`, `TXQ` empty, the host restarted; the
registers R34 calls unspecified take free values of their range, and so does `RXQ`; `NOW` is an input and goes on. -/
def State.resetInput (s : State) : State :=
  { s with
    w := Window.ofFn (Config.resetByte s.free)
    n := Config.resetNat s.free 0 % 10
    len := 3 + Config.resetNat s.free 1 % 7
    t0 := Config.resetNat s.free 2 % 2 ^ s.cfg.nowWidth
    cur := cmdOfNat (Config.resetNat s.free 3)
    phase := .idle
    out := .none
    rxq := match s.cfg.rxqDepth with
      | none => Config.resetRxq s.free
      | some d => (Config.resetRxq s.free).take d
    txq := []
    driver := Driver.restarted s.free
    free := s.free + 1 }

end Sys2Proof.Machine
end

