-- ==== Sys2Proof/Machine/Commands.lean ====
section
/-! DEFINITION. The meanings of the five outbound commands (41_command_encoder.md): "its effect on the block is rule R77
and nothing more". -/

namespace Sys2Proof.Machine

/-- `SEND SOFT_RESET` (R77, R78). -/
def execSoftReset (s : State) : Answer := s.send .softReset 0

/-- `SEND HARD_RESET` (R77, R79). -/
def execHardReset (s : State) : Answer := s.send .hardReset 0

/-- `SEND SET_FRAME_RATE, p` (R77, R80). -/
def execSetFrameRate (p : BitVec 16) (s : State) : Answer := s.send .setFrameRate p.toNat

/-- `SEND SET_BAUD_RATE, p` (R77, R81). -/
def execSetBaudRate (p : BitVec 32) (s : State) : Answer := s.send .setBaudRate p.toNat

/-- `SEND SAVE_SETTINGS` (R77, R82). -/
def execSaveSettings (s : State) : Answer := s.send .saveSettings 0

end Sys2Proof.Machine
end

