-- ==== Sys2Proof/Machine/Measurement.lean ====
section
/-! DEFINITION. The meaning of the inbound measurement frame (40_frame_decoder.md). -/

namespace Sys2Proof.Machine

/-- `MEAS` (R66, R67, R72): the nine bytes as the full window at the candidate test. In F_SYNC the attempt ends with a
reading, or with `ChecksumFailed`. In the other phases the frame is not recognised (R57). -/
def execMeas (dist strength temp : BitVec 16) (ck : Byte) (s : State) : Answer :=
  .next (s.receive (measBytes s.cfg dist strength temp ck))

end Sys2Proof.Machine
end

