-- ==== Sys2Proof/Machine/Replies.lean ====
section
/-! DEFINITION. The meanings of the five inbound replies (42_reply_decoder.md). A reply's bytes meet the block as a full
window; which command they answer is decided by CUR, never by the bytes (R101). -/

namespace Sys2Proof.Machine

/-- `SOFT_RESET.reply` (R93, R94, R96). -/
def execSoftResetReply (body : List Byte) (ck : Byte) (s : State) : Answer :=
  .next (s.receive (replyBytes s.cfg body ck))

/-- `HARD_RESET.reply` (R93, R94, R97). -/
def execHardResetReply (body : List Byte) (ck : Byte) (s : State) : Answer :=
  .next (s.receive (replyBytes s.cfg body ck))

/-- `SET_FRAME_RATE.reply` (R93, R95, R98). -/
def execSetFrameRateReply (body : List Byte) (ck : Byte) (s : State) : Answer :=
  .next (s.receive (replyBytes s.cfg body ck))

/-- `SET_BAUD_RATE.reply` (R93, R95, R99). -/
def execSetBaudRateReply (body : List Byte) (ck : Byte) (s : State) : Answer :=
  .next (s.receive (replyBytes s.cfg body ck))

/-- `SAVE_SETTINGS.reply` (R93, R94, R100). -/
def execSaveSettingsReply (body : List Byte) (ck : Byte) (s : State) : Answer :=
  .next (s.receive (replyBytes s.cfg body ck))

end Sys2Proof.Machine
end

