-- ==== Sys2Proof/Machine/Dispatch.lean ====
section
/-! DEFINITION. One arm per constructor of Instr, each one direct call of its meaning. -/

namespace Sys2Proof.Machine

def exec (i : Instr) (s : State) : Host.Outcome State Fault Refusal :=
  match i with
  | .meas dist strength temp ck => Sys2Proof.Machine.execMeas dist strength temp ck s
  | .softReset => Sys2Proof.Machine.execSoftReset s
  | .hardReset => Sys2Proof.Machine.execHardReset s
  | .setFrameRate p => Sys2Proof.Machine.execSetFrameRate p s
  | .setBaudRate p => Sys2Proof.Machine.execSetBaudRate p s
  | .saveSettings => Sys2Proof.Machine.execSaveSettings s
  | .softResetReply body ck => Sys2Proof.Machine.execSoftResetReply body ck s
  | .hardResetReply body ck => Sys2Proof.Machine.execHardResetReply body ck s
  | .setFrameRateReply body ck => Sys2Proof.Machine.execSetFrameRateReply body ck s
  | .setBaudRateReply body ck => Sys2Proof.Machine.execSetBaudRateReply body ck s
  | .saveSettingsReply body ck => Sys2Proof.Machine.execSaveSettingsReply body ck s

end Sys2Proof.Machine
end

