-- ==== Sys2Proof/Machine/Micro.lean ====
section
/-! DEFINITION. The block's micro-steps: F_STEP (R63) and R_STEP (R89) as one loop iteration with two deadlines and two
expiry outcomes. -/

namespace Sys2Proof.Machine

/-- What a window is read as: by the phase and `CUR` (R59). -/
def State.context (s : State) : Context :=
  match s.phase with
  | .rSync => .reply s.cur
  | _ => .measurement

/-- The candidate test after a shift (R66, R92): only a full window is tested (D4). A window that decodes is the frame it
decodes to; any other is no candidate and the attempt continues. -/
def State.testWindow (s : State) : Answer :=
  if s.n = s.len then
    match decode s.cfg s.context s.window with
    | .ok i => exec i s
    | .error _ => .next s
  else .next s

/-- One loop iteration, its three cases tested in this order (R63, R89, R129): deadline expiry, idle wait, one byte. -/
def State.syncStep (deadlineMs : Nat) (expiry : Out) (s : State) : Answer :=
  if deadlineMs ≤ s.elapsed then .next (s.finish expiry)
  else match s.rxPop with
    | none => .next s
    | some (b, popped) => (popped.shift b).testWindow

/-- `F_STEP` (R63). -/
def State.fStep (s : State) : Answer := s.syncStep s.cfg.frameDeadlineMs (.frameFail .headerSyncFailed)

/-- `R_STEP` (R89). -/
def State.rStep (s : State) : Answer := s.syncStep s.cfg.replyDeadlineMs (.cmd .timeout)

/-- The block's turn: in IDLE it "takes no micro-step of its own" (R20). -/
def State.blockStep (s : State) : Answer :=
  match s.phase with
  | .idle => .next s
  | .fSync => s.fStep
  | .rSync => s.rStep

/-- The instruction a host names (R84). -/
def Command.instr : Command → Instr
  | .softReset => .softReset
  | .hardReset => .hardReset
  | .setFrameRate p => .setFrameRate p
  | .setBaudRate p => .setBaudRate p
  | .saveSettings => .saveSettings

end Sys2Proof.Machine
end

