-- ==== Sys2Proof/Machine/Driver.lean ====
section
/-! DEFINITION. The host (44_host_environment.md): the two start operations it may request (R103), and the source's host
software as operations made of them: DeviceHealthMachine (R104 to R111, R113), ErrorRateTracker (R114), initialisation
(R139). The block's rules read none of it (R102). -/

namespace Sys2Proof.Machine

/-- Currently within the wake-grace window: the deadline lies ahead, by no more than the window's length (R106, R113; log entry 21). -/
def Driver.inGrace (cfg : Cfg) (now : Nat) (d : Driver) : Bool :=
  match d.wakeGraceDeadline with
  | none => false
  | some t => decide (0 < timeSince cfg.nowWidth t now ∧ timeSince cfg.nowWidth t now ≤ cfg.driver.wakeGraceMs)

/-- "Then reverts" (R119): a wake-grace window that is over is forgotten. DESIGN CHOICE: a tick forgets it and nothing else does
(a later wake replaces it), so that with none between its end and a wrap of NOW back into its span it is open again (log entry 21). -/
def Driver.expireGrace (cfg : Cfg) (now : Nat) (d : Driver) : Driver :=
  { d with wakeGraceDeadline := if d.inGrace cfg now then d.wakeGraceDeadline else none }

/-- "At least a fixed retry interval has elapsed since the last retry attempt", or the back-off is cleared (R106, R110).
DESIGN CHOICE: the age is taken on the wrapping clock and never expires (log entry 36). -/
def Driver.retryDue (cfg : Cfg) (now : Nat) (d : Driver) : Bool :=
  match d.lastRetry with
  | none => true
  | some t => decide (cfg.driver.retryIntervalMs ≤ timeSince cfg.nowWidth now t)

/-- Whether a tick attempts a read (R105, R106, R107). -/
def Driver.readsThisTick (cfg : Cfg) (now : Nat) (d : Driver) : Bool :=
  match d.device with
  | .sleeping => false
  | .online => true
  | .offline => d.inGrace cfg now || d.retryDue cfg now

/-- Emit one "unavailable" signal (R109, R111). DESIGN CHOICE: the last-published values stay what they were (log entry 35). -/
def Driver.signalUnavailable (d : Driver) : Driver :=
  { d with gate := d.gate ++ [.unavailable], publishedUnavailable := true }

/-- A tick in Sleeping (R105): health is reported, publication is unavailable, once (log entry 24). -/
def Driver.sleepingTick (d : Driver) : Driver :=
  let reported := { d with lastReported := some .sleeping }
  if d.publishedUnavailable then reported else reported.signalUnavailable

/-- The status of a reading (R115, R120). -/
def Anomaly.status : Anomaly → StatusCode
  | .ok => .ok
  | .weakSignal => .weakSignal
  | .strongSignal => .strongSignal
  | .floodLight => .floodLight

/-- The status of a failed frame attempt (R115, R120). -/
def FrameReason.status : FrameReason → StatusCode
  | .headerSyncFailed => .headerSyncFailed
  | .checksumFailed => .checksumFailed

/-- The status of a command's result (R115, R120). -/
def CmdResult.status : CmdResult → StatusCode
  | .pass => .pass
  | .fail => .fail
  | .checksumFailed => .checksumFailed
  | .timeout => .timeout

/-- The error window at a failure at time `now` (R114, C13): a window that is over restarts from zero; then the failure counts.
DESIGN CHOICE: the next window starts at the failure that finds the old one over, not where the old one ended (log entry 32);
its age is taken on the wrapping clock (log entry 36). -/
def Driver.countError (cfg : Cfg) (now : Nat) (d : Driver) : Driver :=
  match d.errorWindowStart with
  | none => { d with errorWindowStart := some now, errorWindowCount := 1 }
  | some t =>
    if cfg.driver.errorWindowMs ≤ timeSince cfg.nowWidth now t then
      { d with errorWindowStart := some now, errorWindowCount := 1 }
    else { d with errorWindowCount := d.errorWindowCount + 1 }

/-- A report is allowed when none was emitted in the last window's length (R114). DESIGN CHOICE: the age of the last report is
taken on the wrapping clock (log entry 36). -/
def Driver.reportAllowed (cfg : Cfg) (now : Nat) (d : Driver) : Bool :=
  match d.lastErrorLog with
  | none => true
  | some t => decide (cfg.driver.errorWindowMs ≤ timeSince cfg.nowWidth now t)

/-- `record(status, now)` (R114). When within its window the tracker reports is not said (N14): `emits` is a free value.
DESIGN CHOICE: a report comes at a failure only, and at the failure that crosses a window's boundary the old count is dropped
first, so that a report there carries the new window's count, 1 (log entry 32). -/
def Driver.record (cfg : Cfg) (now : Nat) (emits : Bool) (status : StatusCode) (d : Driver) : Driver :=
  let counted := d.countError cfg now
  let reporting := emits && d.reportAllowed cfg now
  { counted with
    reports := if reporting then counted.reports ++ [(counted.errorWindowCount, status)] else counted.reports
    lastErrorLog := if reporting then some now else counted.lastErrorLog }

/-- A successful read (R108): Online, the flag reset on a transition, the time recorded, the reading handed to the gate.
DESIGN CHOICE: the time recorded is `now`, the turn in which the host takes the outcome (log entry 34).
What the gate publishes is not in the source (N13): `publishes` is a free value. DESIGN CHOICE: the last-published values
change as one whole reading or not at all (log entry 35). -/
def Driver.goodFrame (now : Nat) (publishes : Bool) (ds st tc : Int) (a : Anomaly) (d : Driver) : Driver :=
  { d with
    device := .online
    publishedUnavailable := if d.device = .online then d.publishedUnavailable else false
    lastGoodFrame := some now
    lastReported := some a.status
    gate := d.gate ++ [.reading ds st tc a]
    lastPublished := if publishes then some (.reading ds st tc a) else d.lastPublished }

/-- "No good frame has been seen within a timeout window", 5 s inside the wake-grace window, else 1 s (R109; log entry 21).
DESIGN CHOICE: the age of the last good frame is taken on the wrapping clock and never expires, so that for one threshold after
each wrap an old frame counts as recent (log entry 36). -/
def Driver.silent (cfg : Cfg) (now : Nat) (d : Driver) : Bool :=
  match d.lastGoodFrame with
  | none => true
  | some t =>
    decide ((if d.inGrace cfg now then cfg.driver.offlineTimeoutGraceMs else cfg.driver.offlineTimeoutMs)
      < timeSince cfg.nowWidth now t)

/-- The transition into Offline, once (R109): the triggering status is recorded and one "unavailable" signal emitted. -/
def Driver.goOffline (status : StatusCode) (d : Driver) : Driver :=
  { d.signalUnavailable with device := .offline, lastReported := some status }

/-- Offline declaration after a failed read attempt (R109), and the back-off reset (R110, C8; log entry 25). -/
def Driver.declareOffline (cfg : Cfg) (now : Nat) (reason : FrameReason) (d : Driver) : Driver :=
  if d.silent cfg now then
    let timedOut := decide (reason = .headerSyncFailed)
    if d.device = .offline then
      if timedOut && cfg.driver.retryResetOnEveryTimeout then { d with lastRetry := none } else d
    else
      let off := d.goOffline reason.status
      if timedOut || d.inGrace cfg now then { off with lastRetry := none } else off
  else d

/-- The outcome of a tick's `DECODE` is taken (R108, R109, R114, R117). DESIGN CHOICE: the host's times are `NOW` at this turn
(log entry 34). -/
def State.collectRead (s : State) : State :=
  match s.out with
  | .reading ds st tc a =>
    { s with
      driver := { s.driver.goodFrame s.now (Config.gatePublishes s.free) ds st tc a with pending := .none }
      free := s.free + 1 }
  | .frameFail r =>
    let recorded := s.driver.record s.cfg s.now (Config.reportsNow s.free) r.status
    let reported := { recorded with lastReported := some r.status }
    { s with driver := { reported.declareOffline s.cfg s.now r with pending := .none }, free := s.free + 1 }
  | _ => { s with driver := { s.driver with pending := .none } }

/-- The status of a command's outcome in `OUT`, recorded as the last one (R115). -/
def Driver.commandReported (o : Out) (d : Driver) : Driver :=
  match o with
  | .cmd r => { d with lastReported := some r.status }
  | _ => d

/-- The outcome of `sleep()`'s command is taken (R111): on success Sleeping and one "unavailable" signal. DESIGN CHOICE: a
repeated `sleep()` sends its command again, and each Pass signals again, whatever the flag holds (log entry 33). -/
def State.collectSleep (s : State) : State :=
  let d := { s.driver.commandReported s.out with pending := .none }
  if s.out = .cmd .pass then { s with driver := { d.signalUnavailable with device := .sleeping } }
  else { s with driver := d }

/-- The outcome of `wake`'s command is taken (R113): on success Offline, back-off cleared, the wake-grace window opened, from
`NOW` at this turn (DESIGN CHOICE, log entry 34). DESIGN CHOICE: a repeated `wake()`, or one while Online, sends its command
again, and each Pass does all of this again (log entry 33). -/
def State.collectWake (s : State) : State :=
  let d := { s.driver.commandReported s.out with pending := .none }
  if s.out = .cmd .pass then
    { s with driver := { d with
        device := .offline
        lastRetry := none
        wakeGraceDeadline := some ((s.now + s.cfg.driver.wakeGraceMs) % 2 ^ s.cfg.nowWidth) } }
  else { s with driver := d }

/-- The outcome of one command of the initialisation is taken; the next is sent whatever it was, and after the last the
health machine is Offline (R139, D21). DESIGN CHOICE: an initialisation requested after ticks have begun is run as before the first;
it ends in Offline with no "unavailable" signal, the back-off and the wake-grace window kept (log entry 37). -/
def State.collectSetup (rest : List Command) (s : State) : Answer :=
  match rest with
  | [] => .next { s with driver := { s.driver.commandReported s.out with pending := .none, device := .offline } }
  | c :: more => exec c.instr { s with driver := { s.driver.commandReported s.out with pending := .setup more } }

/-- The host looks at PHASE: while the attempt runs it does nothing (R103), afterwards it takes the outcome. -/
def State.collect (s : State) : Answer :=
  if s.phase ≠ .idle then .next s
  else match s.driver.pending with
    | .none => .next s
    | .read => .next s.collectRead
    | .sleep => .next s.collectSleep
    | .wake => .next s.collectWake
    | .setup rest => s.collectSetup rest

/-- The driver after the decision to read: in Offline the retry time is set (R106; log entry 22). -/
def Driver.reading (now : Nat) (d : Driver) : Driver :=
  { d with pending := .read, lastRetry := if d.device = .offline then some now else d.lastRetry }

/-- One scheduler tick (R105 to R107): it attempts one read or does nothing to the block. -/
def State.tick (s : State) : Answer :=
  let d := s.driver.expireGrace s.cfg s.now
  if d.readsThisTick s.cfg s.now then { s with driver := d.reading s.now }.decodeStart
  else if d.device = .sleeping then .next { s with driver := d.sleepingTick }
  else .next { s with driver := d }

/-- `sleep()`: "issue the set frame rate to 0 command" (R111). -/
def State.sleepRequest (s : State) : Answer :=
  exec (.setFrameRate 0) { s with driver := { s.driver with pending := .sleep } }

/-- `wake(frame_rate)`: the argument is saved and sent (R113, C11). -/
def State.wakeRequest (rate : BitVec 16) (s : State) : Answer :=
  exec (.setFrameRate rate) { s with driver := { s.driver with pending := .wake, savedRate := rate } }

/-- Initialisation (R139): the commands in the spec's order; each is run to its outcome before the next. -/
def setupCommands (softResetAtStart : Bool) (rate : BitVec 16) (persist : Bool) : List Command :=
  (if softResetAtStart then [.softReset] else []) ++ [.setFrameRate rate] ++ (if persist then [.saveSettings] else [])

/-- The start of the initialisation (R139). DESIGN CHOICE: its frame rate becomes the saved frame rate; the spec says that of
`wake`'s argument only (R113, D30; log entry 31). -/
def State.setupRequest (softResetAtStart : Bool) (rate : BitVec 16) (persist : Bool) (s : State) : Answer :=
  match setupCommands softResetAtStart rate persist with
  | [] => .next s
  | c :: more => exec c.instr { s with driver := { s.driver with pending := .setup more, savedRate := rate } }

/-- The host's duty (R47, R103, R118): no operation while PHASE is a sync phase or another operation's outcome is not taken. -/
def State.hostFree (s : State) : Bool := s.phase == .idle && s.driver.pending == .none

/-- A host operation under that duty. -/
def State.serialised (k : State → Answer) (s : State) : Answer :=
  if s.hostFree then k s else .fault .startWhileBusy

/-- The host acts (R103). -/
def State.hostStep (r : Request) (s : State) : Answer :=
  match r with
  | .decode => s.serialised State.decodeStart
  | .send c => s.serialised (exec c.instr)
  | .tick => s.serialised State.tick
  | .sleep => s.serialised State.sleepRequest
  | .wake rate => s.serialised (State.wakeRequest rate)
  | .setup soft rate persist => s.serialised (State.setupRequest soft rate persist)
  | .collect => s.collect

/-- One turn of one agent (R14, R15, R136). -/
def State.runTurn (t : Turn) (s : State) : Answer :=
  match t with
  | .block => s.blockStep
  | .lineIn b => .next (s.lineIn b)
  | .clock ms => .next (s.clock ms)
  | .host r => s.hostStep r
  | .reset => .next s.resetInput

/-! Where an instruction is placed so that the very next step runs it (log entry 3). -/

/-- The command an outbound instruction stands for. -/
def commandOf : Instr → Option Command
  | .softReset => some .softReset
  | .hardReset => some .hardReset
  | .setFrameRate p => some (.setFrameRate p)
  | .setBaudRate p => some (.setBaudRate p)
  | .saveSettings => some .saveSettings
  | _ => none

/-- A window one byte short of full: `f[0..L-2]` shifted in, `f[L-1]` at the head of `RXQ`, the attempt just started. -/
def State.placeWindow (ph : Phase) (c : CmdName) (f : List Byte) (s : State) : State :=
  { s with
    w := Window.ofFn fun i => if i = 0 then 0 else if i < f.length then byteAt f (i - 1) else 0
    n := f.length - 1
    len := f.length
    phase := ph
    t0 := s.now
    cur := c
    out := .none
    rxq := f.getLastD 0 :: s.rxq }

/-- The state in which the next step meets instruction `i`: a command is the host's next request, an inbound frame is a
window one byte short of full in the phase that recognises it. -/
def State.place (i : Instr) (s : State) : State :=
  match commandOf i with
  | some c =>
    { s with
      cfg := Cfg.standard
      phase := .idle
      driver := { s.driver with pending := .none }
      schedule := .host (.send c) :: s.schedule }
  | none =>
    let base := { s with cfg := Cfg.standard, schedule := .block :: s.schedule }
    match i.context with
    | .reply c => base.placeWindow .rSync c (encode Cfg.standard i)
    | _ => base.placeWindow .fSync s.cur (encode Cfg.standard i)

end Sys2Proof.Machine
end

