-- ==== Sys2Proof/Machine/Step.lean ====
section
/-! DEFINITION. One step: the turn the schedule gives, and the block's where it gives none (R14, R15; log entry 4). -/

namespace Sys2Proof.Machine

/-- One step of the machine. -/
def step (s : State) : Host.Outcome State Fault Refusal :=
  match s.schedule with
  | [] => s.blockStep
  | t :: rest => { s with schedule := rest }.runTurn t

/-- The state whose next step runs the instruction a table row's bits are (log entries 1 to 3). -/
def State.withFetchWord (s : State) (nbits w : Nat) : State :=
  match decodeTableWord nbits w with
  | none => s
  | some i => s.place i

end Sys2Proof.Machine
end

