-- ==== Sys2Proof/Safety.lean ====
section
/-! DEFINITION. What counts as a well-formed state (R35), as a legal move of `PHASE` (R20), as a legal output trace (R85),
and the words the statements use to compare answers. -/

namespace Sys2Proof.Machine

/-- An `i16` (R12, R24). -/
abbrev fitsI16 (v : Int) : Prop := -32768 ≤ v ∧ v ≤ 32767

/-- `OUT` holds values its register has: the three fields of a reading are `i16` (R24). -/
abbrev Out.fits (o : Out) : Prop :=
  match o with
  | .reading d s t _ => fitsI16 d ∧ fitsI16 s ∧ fitsI16 t
  | _ => True

/-- The state's well-formedness: R35 (i) to (v), the ranges of R17 to R28, and a table that R30 admits. -/
structure State.Inv (s : State) : Prop where
  cfgWf : s.cfg.wf = true
  /-- R18 -/
  nRange : s.n ≤ 9
  /-- R19 -/
  lenRange : 3 ≤ s.len ∧ s.len ≤ 9
  /-- R21 -/
  t0Range : s.t0 < 2 ^ s.cfg.nowWidth
  /-- R28 -/
  nowRange : s.now < 2 ^ s.cfg.nowWidth
  /-- R24 -/
  outRange : s.out.fits
  /-- R35 (i) -/
  filled : s.phase = .idle ∨ s.n ≤ s.len
  /-- R35 (ii) -/
  frameLength : s.phase = .fSync → s.len = 9
  /-- R35 (iii) -/
  replyLength : s.phase = .rSync → s.len = (s.cfg.row s.cur).replyLength
  /-- R35 (iv) -/
  noOutcome : s.phase ≠ .idle → s.out = .none
  /-- R35 (v), its second half: the unfilled part of the window is zero -/
  unfilledZero : s.phase ≠ .idle → ∀ i, i < s.len - s.n → s.w.reg i = 0

/-- The moves of `PHASE` (R20). -/
abbrev phaseMove (p q : Phase) : Prop :=
  p = q ∨ (p = .idle ∧ q = .fSync) ∨ (p = .idle ∧ q = .rSync) ∨ (p = .fSync ∧ q = .idle) ∨ (p = .rSync ∧ q = .idle)

/-- `TXQ` is "a concatenation of such frames, one per SEND since reset, in order" (R85 (iv)). -/
def TxFramed (cfg : Cfg) (txq : List Byte) : Prop :=
  ∃ sent : List Command, txq = (sent.map fun c => encode cfg c.instr).flatten

/-- The row a command names (R84). -/
def Command.name : Command → CmdName
  | .softReset => .softReset
  | .hardReset => .hardReset
  | .setFrameRate _ => .setFrameRate
  | .setBaudRate _ => .setBaudRate
  | .saveSettings => .saveSettings

/-- An answer with its next state, if any, rewritten: to compare the answers of two states. -/
def mapNext (f : State → State) : Answer → Answer
  | .next s => .next (f s)
  | .fault r => .fault r
  | .refused r => .refused r

/-- `s` with everything that is not the block's own replaced: the host's software, the schedule, the free-value counter. -/
def State.withSurroundings (s : State) (d : Driver) (sched : List Turn) (free : Nat) : State :=
  { s with driver := d, schedule := sched, free := free }

/-- The block's own registers, queues and clock are those of `t`: only the host's software, the schedule and the counter
of free values may differ. -/
abbrev State.sameBlock (s t : State) : Prop :=
  s = t.withSurroundings s.driver s.schedule s.free

/-- It is the block's turn, listed or by default, and `s0` is `s` with that turn taken off the schedule. -/
abbrev blockTurn (s s0 : State) : Prop :=
  (s.schedule = [] ∧ s0 = s) ∨ ∃ rest, s.schedule = .block :: rest ∧ s0 = { s with schedule := rest }

/-- An attempt runs and its deadline has not expired (R64, R90). -/
abbrev State.attemptRuns (s : State) : Prop :=
  (s.phase = .fSync ∧ s.elapsed < s.cfg.frameDeadlineMs) ∨ (s.phase = .rSync ∧ s.elapsed < s.cfg.replyDeadlineMs)

/-- The state after one byte `b` was popped and shifted in, `q` being what is left of `RXQ` (R61, R66). -/
def State.tookByte (b : Byte) (q : List Byte) (s : State) : State :=
  { s with rxq := q, w := s.w.shift s.len b, n := min (s.n + 1) s.len }

/-- The state SEND leaves while the reply to row `c` is awaited (R77): `frame` transmitted, everything else it writes. -/
def State.awaitingReply (c : CmdName) (frame : List Byte) (s : State) : State :=
  { s with
    rxq := []
    txq := s.txq ++ frame
    cur := c
    len := (s.cfg.row c).replyLength
    w := Window.zero
    n := 0
    t0 := s.now
    out := .none
    phase := .rSync }

/-- A turn of the block, of Line-in or of the Clock: what may happen while the host waits for an attempt to end (R103). -/
def Turn.whileWaiting : Turn → Bool
  | .block => true
  | .lineIn _ => true
  | .clock _ => true
  | .host _ => false
  | .reset => false

/-- The bytes Line-in delivers over a list of turns, oldest first. -/
def deliveredBytes : List Turn → List Byte
  | [] => []
  | .lineIn b :: rest => b :: deliveredBytes rest
  | _ :: rest => deliveredBytes rest

/-- The milliseconds the Clock adds over a list of turns. -/
def elapsedOver : List Turn → Nat
  | [] => 0
  | .clock ms :: rest => ms + elapsedOver rest
  | _ :: rest => elapsedOver rest

/-- What an inbound instruction may be: MEAS or one of the replies. -/
abbrev isInbound (i : Instr) : Prop := i.context ≠ .outbound

end Sys2Proof.Machine
end

