-- ==== Sys2Proof/Certificates/Slice0/Obligations.lean ====
section
/-! DEFINITION. The statements for the provers. Each docstring names the rules of spec/ it formalises; where a clause rests
on a decision of the spec (D<n>) or on the model's choice, it says so. -/

open Sys2Proof Sys2Proof.Machine

/-! Encoding. -/

/-- Decoding the encoding of a well-formed instruction gives it back, in the context it is met in, for every well-formed
configuration; of a command it does so when the five opcode bytes differ, and under any other table it gives a command whose
frame is the same bytes (R54, R55, R51, R59, R10). -/
def Obligations.DecodeOfEncode : Prop :=
  ∀ (cfg : Cfg) (i : Instr), cfg.wf = true → i.wellFormed cfg = true →
    (i.context ≠ .outbound ∨ cfg.opcodesDistinct = true → decode cfg i.context (encode cfg i) = .ok i) ∧
    (∃ j, decode cfg i.context (encode cfg i) = .ok j ∧ encode cfg j = encode cfg i)

/-- What decodes is a well-formed instruction of that context, and its encoding is the bytes it was read from: no bit of a
frame is dropped and no two frames are read as one instruction (R51, R54, R55, R58). -/
def Obligations.EncodeOfDecode : Prop :=
  ∀ (cfg : Cfg) (x : Context) (f : List Byte) (i : Instr), cfg.wf = true → decode cfg x f = .ok i →
    encode cfg i = f ∧ i.context = x ∧ i.wellFormed cfg = true

/-- Some frames of the test vectors decode to the instruction they stand for, and some illegal patterns are rejected by name
(vectors E1, E9, E14, F2, Q2, Q11, R57). -/
def Obligations.DecodesSpecWords : Prop :=
  decode Cfg.standard .outbound [0x5A, 0x04, 0x02, 0x60] = .ok .softReset ∧
  decode Cfg.standard .outbound [0x5A, 0x04, 0x10, 0x6E] = .ok .hardReset ∧
  decode Cfg.standard .outbound [0x5A, 0x04, 0x11, 0x6F] = .ok .saveSettings ∧
  decode Cfg.standard .outbound [0x5A, 0x06, 0x03, 0x34, 0x12, 0xA9] = .ok (.setFrameRate 0x1234) ∧
  decode Cfg.standard .outbound [0x5A, 0x08, 0x06, 0x78, 0x56, 0x34, 0x12, 0x7C] = .ok (.setBaudRate 0x12345678) ∧
  decode Cfg.standard .measurement [0x59, 0x59, 0xFF, 0xFF, 0x32, 0x00, 0xC8, 0x08, 0xB2]
    = .ok (.meas 0xFFFF 50 0x08C8 0xB2) ∧
  decode Cfg.standard (.reply .softReset) [0x5A, 0x05, 0x02, 0x01, 0x62] = .ok (.softResetReply [0x02, 0x01] 0x62) ∧
  decode Cfg.standard (.reply .setFrameRate) [0x5A, 0x06, 0x03, 0x0A, 0x00, 0x6D]
    = .ok (.setFrameRateReply [0x03, 0x0A, 0x00] 0x6D) ∧
  decode Cfg.standard .measurement [0x58, 0x59, 0x64, 0x00, 0xE8, 0x03, 0x00, 0x08, 0x09] = .error .wrongHeader ∧
  decode Cfg.standard (.reply .saveSettings) [0x5A, 0x06, 0x03, 0x64, 0x00] = .error .wrongLengthByte ∧
  decode Cfg.standard .outbound [0x5A, 0x04, 0x7F, 0xDD] = .error .unknownOpcode ∧
  decode Cfg.standard .outbound [0x5A, 0x04, 0x02, 0x61] = .error .wrongChecksum

/-- R53: the checksum is the sum reduced once, equal to an 8-bit accumulator that wraps at each addition, 0 on the empty
sequence; a frame is valid when its last byte is the checksum of the others; the rule's examples. -/
def Obligations.ChecksumIsTruncatedSum : Prop :=
  (∀ s : List Byte, (cksum s).toNat = (s.map BitVec.toNat).sum % 256) ∧
  (∀ (s : List Byte) (b : Byte), cksum (s ++ [b]) = cksum s + b) ∧
  cksum [] = 0 ∧
  (∀ (s : List Byte) (ck : Byte), cksumValid (s ++ [ck]) = true ↔ ck = cksum s) ∧
  cksum [0x59, 0x59, 0x64, 0x00, 0xE8, 0x03, 0x00, 0x08] = 0x09 ∧
  cksum (List.replicate 8 0xFF) = 0xF8 ∧ cksum (List.replicate 8 0x00) = 0x00 ∧ cksum [0x80, 0x80] = 0x00

/-- A valid frame with exactly one byte changed: at indices 2 to 8 it is a candidate whose checksum fails, and a running
frame attempt ends with ChecksumFailed; at 0 or 1 it is no candidate and nothing happens (R75, C10). -/
def Obligations.SingleByteCorruptionDetected : Prop :=
  ∀ (s : State) (f : List Byte) (k : Nat) (b : Byte),
    s.phase = .fSync → isFrameCandidate s.cfg f = true → cksumValid f = true → k < 9 → b ≠ byteAt f k →
    (2 ≤ k → s.receive (f.set k b) = { s with out := .frameFail .checksumFailed, phase := .idle }) ∧
    (k < 2 → s.receive (f.set k b) = s)

/-- Every command frame opens with the lead byte, its second byte is its own length, it is checksum-valid, and it has the
table's length, 4 to 8 bytes (R85 (i) to (iii), R54, R43). -/
def Obligations.CommandFramesWellFramed : Prop :=
  ∀ (cfg : Cfg) (c : Command), cfg.wf = true →
    byteAt (encode cfg c.instr) 0 = cfg.cmdLead ∧
    (byteAt (encode cfg c.instr) 1).toNat = (encode cfg c.instr).length ∧
    cksumValid (encode cfg c.instr) = true ∧
    (encode cfg c.instr).length = (cfg.row c.name).commandLength ∧
    4 ≤ (encode cfg c.instr).length ∧ (encode cfg c.instr).length ≤ 8

/-! The five commands. -/

/-- SOFT_RESET, HARD_RESET and SAVE_SETTINGS complete from IDLE: the input drained, the four bytes lead, 4, opcode, checksum
transmitted, and the reply awaited (R77, R78, R79, R82; the layout is D10's). -/
def Obligations.PlainCommandsSend : Prop :=
  ∀ s : State, s.phase = .idle → s.cfg.wf = true →
    ((s.cfg.row .softReset).replyLength ≠ 0 →
      exec .softReset s = .next (s.awaitingReply .softReset
        [s.cfg.cmdLead, 4, (s.cfg.row .softReset).opcodeByte,
         s.cfg.cmdLead + 4 + (s.cfg.row .softReset).opcodeByte])) ∧
    ((s.cfg.row .hardReset).replyLength ≠ 0 →
      exec .hardReset s = .next (s.awaitingReply .hardReset
        [s.cfg.cmdLead, 4, (s.cfg.row .hardReset).opcodeByte,
         s.cfg.cmdLead + 4 + (s.cfg.row .hardReset).opcodeByte])) ∧
    ((s.cfg.row .saveSettings).replyLength ≠ 0 →
      exec .saveSettings s = .next (s.awaitingReply .saveSettings
        [s.cfg.cmdLead, 4, (s.cfg.row .saveSettings).opcodeByte,
         s.cfg.cmdLead + 4 + (s.cfg.row .saveSettings).opcodeByte]))

/-- SET_FRAME_RATE p completes from IDLE, for every p: lead, 6, opcode, low byte, high byte, checksum (R77, R80, R56). -/
def Obligations.SetFrameRateSends : Prop :=
  ∀ (s : State) (p : BitVec 16), s.phase = .idle → s.cfg.wf = true → (s.cfg.row .setFrameRate).replyLength ≠ 0 →
    exec (.setFrameRate p) s = .next (s.awaitingReply .setFrameRate
      [s.cfg.cmdLead, 6, (s.cfg.row .setFrameRate).opcodeByte, p.setWidth 8, (p >>> 8).setWidth 8,
       s.cfg.cmdLead + 6 + (s.cfg.row .setFrameRate).opcodeByte + p.setWidth 8 + (p >>> 8).setWidth 8])

/-- SET_BAUD_RATE p completes from IDLE, for every p: lead, 8, opcode, four bytes least significant first, checksum
(R77, R81, R56). -/
def Obligations.SetBaudRateSends : Prop :=
  ∀ (s : State) (p : BitVec 32), s.phase = .idle → s.cfg.wf = true → (s.cfg.row .setBaudRate).replyLength ≠ 0 →
    exec (.setBaudRate p) s = .next (s.awaitingReply .setBaudRate
      [s.cfg.cmdLead, 8, (s.cfg.row .setBaudRate).opcodeByte,
       p.setWidth 8, (p >>> 8).setWidth 8, (p >>> 16).setWidth 8, (p >>> 24).setWidth 8,
       s.cfg.cmdLead + 8 + (s.cfg.row .setBaudRate).opcodeByte +
         p.setWidth 8 + (p >>> 8).setWidth 8 + (p >>> 16).setWidth 8 + (p >>> 24).setWidth 8])

/-- R83: a command whose row has reply_length 0 drains, transmits its frame and is reported Pass in the start step, with PHASE
left IDLE and no deadline armed; the rule's hypothetical descriptor transmits 5A 04 7F DD. -/
def Obligations.FireAndForgetPasses : Prop :=
  (∀ (s : State) (c : Command), s.phase = .idle → s.cfg.wf = true → (s.cfg.row c.name).replyLength = 0 →
    exec c.instr s = .next
      { s with rxq := [], txq := s.txq ++ encode s.cfg c.instr, out := .cmd .pass, phase := .idle }) ∧
  encodeCommand Cfg.standard ⟨⟨0x7F, 4, 0, 3, false⟩, 0⟩ 0 = [0x5A, 0x04, 0x7F, 0xDD]

/-- What a command leaves unchanged, and that the input ends drained and the output grows by its frame alone (R77, R85 (iv)):
Cfg, NOW, the host, the schedule and the free values always; W, N, LEN, T0, CUR too when it is fire-and-forget. -/
def Obligations.CommandsFrame : Prop :=
  ∀ (c : Command) (s t : State), exec c.instr s = .next t →
    t.cfg = s.cfg ∧ t.now = s.now ∧ t.driver = s.driver ∧ t.schedule = s.schedule ∧ t.free = s.free ∧
    t.rxq = [] ∧ t.txq = s.txq ++ encode s.cfg c.instr ∧
    ((s.cfg.row c.name).replyLength = 0 →
      t.w = s.w ∧ t.n = s.n ∧ t.len = s.len ∧ t.t0 = s.t0 ∧ t.cur = s.cur ∧ t.phase = s.phase)

/-- A start operation while PHASE is not IDLE has no step: the model stops by name (R47, R84, R103; the form of the stop is
log entry 7). From IDLE it answers a next state under every table that meets R30, and exactly a table that breaks R30 is
refused by name (R30, R62, R77, D26, U5; log entry 8). -/
def Obligations.StartOnlyFromIdle : Prop :=
  (∀ s : State,
    (s.phase ≠ .idle → s.decodeStart = .fault .startWhileBusy ∧
      ∀ c : Command, exec c.instr s = .fault .startWhileBusy) ∧
    (s.phase = .idle → s.cfg.wf = false → s.decodeStart = .refused .illFormedTable ∧
      ∀ c : Command, exec c.instr s = .refused .illFormedTable) ∧
    (s.phase = .idle → s.cfg.wf = true → (∃ t, s.decodeStart = .next t) ∧
      ∀ c : Command, ∃ t, exec c.instr s = .next t)) ∧
  (∀ cfg : Cfg, cfg.wf = true ↔ ∀ c : CmdName,
    (cfg.row c).commandLength = 4 + (cfg.row c).paramWidth ∧
    (0 < (cfg.row c).paramWidth → (cfg.row c).paramOffset + (cfg.row c).paramWidth = (cfg.row c).commandLength - 1) ∧
    ((cfg.row c).replyLength = 0 ∨ (3 ≤ (cfg.row c).replyLength ∧ (cfg.row c).replyLength ≤ 9)) ∧
    ((cfg.row c).ack = true → cfg.failFlagOffset + 1 < (cfg.row c).replyLength))

/-! The measurement frame. -/

/-- MEAS with a right checksum completes in F_SYNC, for every field value: the reading of R68 to R72 and nothing else written.
The class order is D7's and the shift is TEMP_SHIFT_ARITH's (D8). -/
def Obligations.MeasGivesReading : Prop :=
  ∀ (dist strength temp : BitVec 16) (ck : Byte) (s : State), s.phase = .fSync →
    ck = s.cfg.hdr0 + s.cfg.hdr1 + dist.setWidth 8 + (dist >>> 8).setWidth 8 + strength.setWidth 8 +
      (strength >>> 8).setWidth 8 + temp.setWidth 8 + (temp >>> 8).setWidth 8 →
    exec (.meas dist strength temp ck) s = .next
      { s with
        out := .reading dist.toInt strength.toInt
          (if s.cfg.tempShiftArith then temp.toInt / 8 - 256 else ((temp.toNat / 8 : Nat) : Int) - 256)
          (if dist = -1 then .weakSignal else if strength = -1 then .strongSignal
           else if dist = -4 then .floodLight else .ok)
        phase := .idle }

/-- MEAS with a wrong checksum completes in F_SYNC with ChecksumFailed and no reading (R52, R67, R122). -/
def Obligations.MeasWrongChecksumRejected : Prop :=
  ∀ (dist strength temp : BitVec 16) (ck : Byte) (s : State), s.phase = .fSync →
    ck ≠ cksum (measBytes s.cfg dist strength temp ck).dropLast →
    exec (.meas dist strength temp ck) s = .next { s with out := .frameFail .checksumFailed, phase := .idle }

/-- DIST is the signed little-endian pair at indices 2 and 3, of i16 range, passed through; a negative value other than -1
and -4 keeps anomaly Ok, unless the strength is the special value -1 of R71; its corner cases (R68, R71). -/
def Obligations.DistanceField : Prop :=
  (∀ f : List Byte, distOf f = s16 (u16le (byteAt f 2) (byteAt f 3)) ∧ fitsI16 (distOf f)) ∧
  (∀ (cfg : Cfg) (f : List Byte), cksumValid f = true → distOf f < 0 → distOf f ≠ -1 → distOf f ≠ -4 →
    strengthOf f ≠ -1 → frameOutcome cfg f = .reading (distOf f) (strengthOf f) (tempOf cfg f) .ok) ∧
  (∀ lo hi x y : Byte, distOf [x, y, lo, hi] = (hi ++ lo : BitVec 16).toInt) ∧
  distOf [0, 0, 0xFF, 0xFF] = -1 ∧ distOf [0, 0, 0xFC, 0xFF] = -4 ∧ distOf [0, 0, 0x00, 0x80] = -32768 ∧
  distOf [0, 0, 0xFF, 0x7F] = 32767 ∧ distOf [0, 0, 0x64, 0x00] = 100

/-- R69: STRENGTH is the signed little-endian pair at indices 4 and 5; FF FF is the only way -1 arises. -/
def Obligations.StrengthField : Prop :=
  (∀ f : List Byte, strengthOf f = s16 (u16le (byteAt f 4) (byteAt f 5)) ∧ fitsI16 (strengthOf f)) ∧
  (∀ f : List Byte, strengthOf f = -1 ↔ byteAt f 4 = 0xFF ∧ byteAt f 5 = 0xFF) ∧
  strengthOf [0, 0, 0, 0, 0xE8, 0x03] = 1000

/-- The temperature is floor(raw / 8) - 256 under both settings of TEMP_SHIFT_ARITH, they agree below 0x8000, and the result
fits i16 (R70, X4; the parameter is D8's). -/
def Obligations.TemperatureDecode : Prop :=
  (∀ raw : Nat, raw < 65536 →
    tempOfRaw false raw = (raw : Int) / 8 - 256 ∧ tempOfRaw true raw = s16 raw / 8 - 256 ∧
    (raw < 0x8000 → tempOfRaw true raw = tempOfRaw false raw) ∧
    -256 ≤ tempOfRaw false raw ∧ tempOfRaw false raw ≤ 7935 ∧
    -4352 ≤ tempOfRaw true raw ∧ tempOfRaw true raw ≤ 3839) ∧
  (∀ arith : Bool, tempOfRaw arith 0x0800 = 0 ∧ tempOfRaw arith 7 = -256 ∧ tempOfRaw arith 8 = -255 ∧
    tempOfRaw arith 0x08CF = 25) ∧
  tempOfRaw false 0xFFFF = 7935 ∧ tempOfRaw true 0xFFFF = -257 ∧
  tempOfRaw false 0x8000 = 3840 ∧ tempOfRaw true 0x8000 = -4352

/-- The anomaly class: each class has its condition, Ok is every other pair, and an overlap is decided in the order
WeakSignal, StrongSignal, FloodLight (R71; the order on overlaps is D7's). -/
def Obligations.AnomalyClasses : Prop :=
  ∀ d s : Int,
    (classify d s = .weakSignal ↔ d = -1) ∧
    (classify d s = .strongSignal ↔ s = -1 ∧ d ≠ -1) ∧
    (classify d s = .floodLight ↔ d = -4 ∧ s ≠ -1) ∧
    (classify d s = .ok ↔ d ≠ -1 ∧ d ≠ -4 ∧ s ≠ -1)

/-! The five replies. -/

/-- Every reply with a right checksum completes while CUR is an acknowledging row of that length: Fail exactly when the flag byte
is 1, else Pass, and nothing else written. CUR decides, not the frame's own row: by the default table these are SOFT_RESET.reply,
HARD_RESET.reply and SAVE_SETTINGS.reply, and R10 makes the class a parameter (R93, R94, R96, R97, R100, R101;
FAIL_FLAG_OFFSET is D11's). -/
def Obligations.AckRepliesInterpretFlag : Prop :=
  ∀ (body : List Byte) (s : State), s.phase = .rSync → (s.cfg.row s.cur).ack = true →
    body.length + 3 = s.len → s.len ≤ 9 →
    ∀ ck : Byte, ck = cksum (s.cfg.cmdLead :: BitVec.ofNat 8 s.len :: body) →
      let result : CmdResult :=
        if (s.cfg.cmdLead :: BitVec.ofNat 8 s.len :: body ++ [ck]).getD s.cfg.failFlagOffset 0 = 1 then .fail else .pass
      exec (.softResetReply body ck) s = .next { s with out := .cmd result, phase := .idle } ∧
      exec (.hardResetReply body ck) s = .next { s with out := .cmd result, phase := .idle } ∧
      exec (.saveSettingsReply body ck) s = .next { s with out := .cmd result, phase := .idle } ∧
      exec (.setFrameRateReply body ck) s = .next { s with out := .cmd result, phase := .idle } ∧
      exec (.setBaudRateReply body ck) s = .next { s with out := .cmd result, phase := .idle }

/-- Every reply with a right checksum completes with Pass while CUR is a row without flag, of that length: no byte of the payload
is examined. By the default table these are SET_FRAME_RATE.reply and SET_BAUD_RATE.reply (R93, R95, R98, R99, R101 (b), R10). -/
def Obligations.EchoRepliesPass : Prop :=
  ∀ (body : List Byte) (s : State), s.phase = .rSync → (s.cfg.row s.cur).ack = false →
    body.length + 3 = s.len → s.len ≤ 9 →
    ∀ ck : Byte, ck = cksum (s.cfg.cmdLead :: BitVec.ofNat 8 s.len :: body) →
      exec (.setFrameRateReply body ck) s = .next { s with out := .cmd .pass, phase := .idle } ∧
      exec (.setBaudRateReply body ck) s = .next { s with out := .cmd .pass, phase := .idle } ∧
      exec (.softResetReply body ck) s = .next { s with out := .cmd .pass, phase := .idle } ∧
      exec (.hardResetReply body ck) s = .next { s with out := .cmd .pass, phase := .idle } ∧
      exec (.saveSettingsReply body ck) s = .next { s with out := .cmd .pass, phase := .idle }

/-- Every reply of the awaited length with a wrong checksum completes with ChecksumFailed, flag or no flag (R93, R122, R129 (5)). -/
def Obligations.RepliesWrongChecksumRejected : Prop :=
  ∀ (c : CmdName) (body : List Byte) (ck : Byte) (s : State), s.phase = .rSync →
    body.length + 3 = s.len → s.len ≤ 9 → ck ≠ cksum (s.cfg.cmdLead :: BitVec.ofNat 8 s.len :: body) →
    exec (replyInstr c body ck) s = .next { s with out := .cmd .checksumFailed, phase := .idle }

/-- Where a frame is not recognised nothing happens: any inbound frame in IDLE, one whose length is not the awaited length in R_SYNC,
one that is not nine bytes long in F_SYNC (R57, R66, R92, R128). -/
def Obligations.UnrecognisedFramesIgnored : Prop :=
  ∀ (i : Instr) (s : State), isInbound i →
    (s.phase = .idle → exec i s = .next s) ∧
    (s.phase = .rSync → (encode s.cfg i).length ≠ s.len → exec i s = .next s) ∧
    (s.phase = .fSync → (encode s.cfg i).length ≠ 9 → exec i s = .next s)

/-- What an inbound frame leaves unchanged: everything but OUT and PHASE (R67, R93, R125). -/
def Obligations.InboundFrame : Prop :=
  ∀ (i : Instr) (s t : State), isInbound i → exec i s = .next t → t = { s with out := t.out, phase := t.phase }

/-! Micro-steps. -/

/-- SHIFT by register: R61's pseudocode, the registers from LEN on untouched, N saturating, nothing else written; its example. -/
def Obligations.ShiftOperation : Prop :=
  (∀ (s : State) (b : Byte), 1 ≤ s.len → s.len ≤ 9 →
    (∀ i, i + 1 < s.len → (s.shift b).w.reg i = s.w.reg (i + 1)) ∧
    (s.shift b).w.reg (s.len - 1) = b ∧
    (∀ i, s.len ≤ i → (s.shift b).w.reg i = s.w.reg i) ∧
    (s.shift b).n = min (s.n + 1) s.len ∧
    s.shift b = { s with w := (s.shift b).w, n := (s.shift b).n }) ∧
  (Window.shift ⟨0, 0, 0, 0, 0, 0, 0, 0x59, 0x59⟩ 9 0x64 = ⟨0, 0, 0, 0, 0, 0, 0x59, 0x59, 0x64⟩)

/-- The start of a frame attempt, as a step: a DECODE request in IDLE clears the window, arms the deadline, and touches neither
RXQ nor TXQ nor CUR (R62; no drain is D22's, the cleared window D5's). -/
def Obligations.DecodeStarts : Prop :=
  ∀ (s : State) (rest : List Turn), s.schedule = .host .decode :: rest → s.phase = .idle → s.driver.pending = .none →
    s.cfg.wf = true →
    step s = .next { s with
      schedule := rest, w := Window.zero, n := 0, len := 9, t0 := s.now, out := .none, phase := .fSync }

/-- A step runs the command the host requests: it is `exec` of it, with the turn taken off the schedule (R15, R77, R103). -/
def Obligations.StepRunsRequestedCommand : Prop :=
  ∀ (c : Command) (s : State) (rest : List Turn), s.schedule = .host (.send c) :: rest → s.phase = .idle →
    s.driver.pending = .none → step s = exec c.instr { s with schedule := rest }

/-- A step runs the frame the full window decodes to: one byte popped and shifted in, then `exec` of the decoded frame on that
state (R66, R92, R59). -/
def Obligations.StepRunsWindowFrame : Prop :=
  ∀ (s s0 : State) (b : Byte) (q : List Byte) (i : Instr), blockTurn s s0 → s.attemptRuns → s.rxq = b :: q →
    min (s.n + 1) s.len = s.len → decode s.cfg s.context (s0.tookByte b q).window = .ok i →
    step s = exec i (s0.tookByte b q)

/-- A byte that completes no candidate is consumed and the attempt goes on: the window is not full, or its markers do not match
(R66, R92; the fullness test is D4's). -/
def Obligations.ByteWithoutCandidate : Prop :=
  ∀ (s s0 : State) (b : Byte) (q : List Byte), blockTurn s s0 → s.attemptRuns → s.rxq = b :: q →
    (min (s.n + 1) s.len ≠ s.len ∨
      (s.phase = .fSync ∧ ¬((s.w.shift s.len b).reg 0 = s.cfg.hdr0 ∧ (s.w.shift s.len b).reg 1 = s.cfg.hdr1)) ∨
      (s.phase = .rSync ∧
        ¬((s.w.shift s.len b).reg 0 = s.cfg.cmdLead ∧ ((s.w.shift s.len b).reg 1).toNat = s.len))) →
    step s = .next (s0.tookByte b q)

/-- A byte that completes a candidate ends the attempt in that step, with the outcome of R67 or R93 on the new window, from every
well-formed state. -/
def Obligations.CandidateEndsAttempt : Prop :=
  ∀ (s s0 : State) (b : Byte) (q : List Byte), s.Inv → blockTurn s s0 → s.attemptRuns → s.rxq = b :: q →
    min (s.n + 1) s.len = s.len →
    (s.phase = .fSync → (s.w.shift s.len b).reg 0 = s.cfg.hdr0 → (s.w.shift s.len b).reg 1 = s.cfg.hdr1 →
      step s = .next { s0.tookByte b q with
        out := frameOutcome s.cfg ((s.w.shift s.len b).bytes 9), phase := .idle }) ∧
    (s.phase = .rSync → (s.w.shift s.len b).reg 0 = s.cfg.cmdLead → ((s.w.shift s.len b).reg 1).toNat = s.len →
      step s = .next { s0.tookByte b q with
        out := .cmd (replyResult s.cfg s.cur ((s.w.shift s.len b).bytes s.len)), phase := .idle })

/-- The deadlines: expired at the start of an iteration, the attempt ends with HeaderSyncFailed in F_SYNC and Timeout in R_SYNC,
whatever RXQ and the window hold, and nothing else is written (R64, R90, R129 (1); testing it first and by >= is D3's). -/
def Obligations.DeadlineEndsAttempt : Prop :=
  ∀ s s0 : State, blockTurn s s0 →
    (s.phase = .fSync → s.cfg.frameDeadlineMs ≤ s.elapsed →
      step s = .next { s0 with out := .frameFail .headerSyncFailed, phase := .idle }) ∧
    (s.phase = .rSync → s.cfg.replyDeadlineMs ≤ s.elapsed →
      step s = .next { s0 with out := .cmd .timeout, phase := .idle })

/-- The idle wait changes nothing, and in IDLE the block takes no micro-step of its own, whatever RXQ holds (R65, R91, R20). -/
def Obligations.IdleWaitStutters : Prop :=
  ∀ s s0 : State, blockTurn s s0 →
    (s.attemptRuns → s.rxq = [] → step s = .next s0) ∧ (s.phase = .idle → step s = .next s0)

/-- The frame of a block's turn: it transmits nothing, pops at most one byte, and leaves Cfg, LEN, T0, CUR, NOW, the registers
from LEN on and everything outside the block unchanged (R37, R43, R61, R85 (iv)). -/
def Obligations.BlockTurnFrame : Prop :=
  ∀ s t : State, s.blockStep = .next t →
    t.cfg = s.cfg ∧ t.len = s.len ∧ t.t0 = s.t0 ∧ t.cur = s.cur ∧ t.txq = s.txq ∧ t.now = s.now ∧
    t.driver = s.driver ∧ t.schedule = s.schedule ∧ t.free = s.free ∧
    (t.rxq = s.rxq ∨ ∃ b, s.rxq = b :: t.rxq) ∧ (∀ i, s.len ≤ i → t.w.reg i = s.w.reg i)

/-- The block, Line-in, the Clock and the reset input never stop the machine: there is no unrecoverable condition
(R117, R127, R57). -/
def Obligations.OnlyHostTurnsStop : Prop :=
  (∀ (s : State) (t : Turn), (∀ r, t ≠ .host r) → ∃ s', s.runTurn t = .next s') ∧
  (∀ (s : State) (r : Fault), step s = .fault r →
    (∃ req rest, s.schedule = .host req :: rest) ∧ s.hostFree = false) ∧
  (∀ (s : State) (r : Refusal), step s = .refused r → r = .illFormedTable ∧ s.cfg.wf = false)

/-! The clock, the line, reset. -/

/-- elapsed() is right across a wrap of NOW, and a Clock turn adds to NOW, to elapsed(), and to nothing else (R130, R131; width, unit and modular subtraction are
D2's). -/
def Obligations.ElapsedAcrossWrap : Prop :=
  (∀ width t0 d : Nat, d < 2 ^ width → timeSince width ((t0 + d) % 2 ^ width) t0 = d) ∧
  (∀ (s : State) (ms : Nat), (s.clock ms).elapsed = (s.elapsed + ms) % 2 ^ s.cfg.nowWidth) ∧
  (∀ (s : State) (ms : Nat) (rest : List Turn), s.schedule = .clock ms :: rest →
    step s = .next { s with schedule := rest, now := (s.now + ms) % 2 ^ s.cfg.nowWidth })

/-- Line-in appends at the tail of RXQ in any phase and touches nothing else (R26, R14). The model's choice, log entry 10: a full
RXQ of finite depth ends with contents that are a free value, no longer than its depth (U4 says "any value"). -/
def Obligations.LineInAppends : Prop :=
  ∀ (s : State) (b : Byte) (rest : List Turn), s.schedule = .lineIn b :: rest →
    (s.cfg.rxqDepth = none ∨ (∃ d, s.cfg.rxqDepth = some d ∧ s.rxq.length < d) →
      step s = .next { s with schedule := rest, rxq := s.rxq ++ [b] }) ∧
    (∀ d, s.cfg.rxqDepth = some d → d ≤ s.rxq.length →
      ∃ q, q.length ≤ d ∧ step s = .next { s with schedule := rest, rxq := q, free := s.free + 1 })

/-- The reset input, in any phase: PHASE = IDLE, OUT = None, TXQ empty, DeviceState = Offline; Cfg and NOW go on
(R136, R34; that there is a reset input is D32's). -/
def Obligations.ResetInputEffect : Prop :=
  ∀ (s : State) (rest : List Turn), s.schedule = .reset :: rest →
    ∃ t, step s = .next t ∧ t.phase = .idle ∧ t.out = .none ∧ t.txq = [] ∧ t.driver.device = .offline ∧
      t.driver.pending = .none ∧ t.cfg = s.cfg ∧ t.now = s.now ∧ t.schedule = rest

/-- The state after reset has the values R34 gives. -/
def Obligations.ResetValues : Prop :=
  State.reset.phase = .idle ∧ State.reset.out = .none ∧ State.reset.txq = [] ∧
  State.reset.driver.device = .offline ∧ State.reset.cfg = Cfg.standard

/-! Whole-machine rules. -/

/-- Every step keeps the state well-formed (R35, R16 to R28). -/
def Obligations.StepKeepsWellFormed : Prop :=
  ∀ s t : State, s.Inv → step s = .next t → t.Inv

/-- The state after reset is well-formed (R35). The values of W, N, LEN, T0, NOW in it are the model's (log entry 5). -/
def Obligations.ResetWellFormed : Prop :=
  State.reset.Inv

/-- Every step keeps TXQ a concatenation of command frames: the block transmits nothing else (R85 (iv)). -/
def Obligations.StepKeepsOutputFramed : Prop :=
  TxFramed State.reset.cfg State.reset.txq ∧
  ∀ s t : State, TxFramed s.cfg s.txq → step s = .next t → TxFramed t.cfg t.txq

/-- PHASE moves only as R20 lists: F_SYNC and R_SYNC never follow one another without IDLE between. -/
def Obligations.PhaseMovesAsListed : Prop :=
  ∀ s t : State, step s = .next t → phaseMove s.phase t.phase

/-- No step writes the configuration: nothing received changes how the block parses (R16, R48, R58). -/
def Obligations.ConfigurationConstant : Prop :=
  ∀ s t : State, step s = .next t → t.cfg = s.cfg

/-- The first candidate in stream order decides the attempt, in every interleaving of the block, Line-in and the Clock in which
the deadline does not expire: after any such turns the attempt still runs with OUT = None, or it has ended with the outcome of
the nine bytes at `j` of the stream, right or wrong, having consumed exactly `j + 9` bytes; and it has ended once the block
had `j + 9` turns after the last byte came (R66, R67, R74 (b), R129, R73, R14, R15). -/
def Obligations.FirstCandidateDecides : Prop :=
  ∀ (s : State) (turns : List Turn) (j : Nat), s.schedule = turns → (∀ u ∈ turns, u.whileWaiting = true) →
    s.cfg.rxqDepth = none → s.phase = .fSync → s.n = 0 → s.len = 9 → s.out = .none →
    s.elapsed + elapsedOver turns < s.cfg.frameDeadlineMs →
    let stream := s.rxq ++ deliveredBytes turns
    j + 9 ≤ stream.length → byteAt stream j = s.cfg.hdr0 → byteAt stream (j + 1) = s.cfg.hdr1 →
    (∀ i, i < j → ¬(byteAt stream i = s.cfg.hdr0 ∧ byteAt stream (i + 1) = s.cfg.hdr1)) →
    ∃ t, Host.Core.run core turns.length s = .next t ∧ t.txq = s.txq ∧
      let ended := t.phase = .idle ∧ t.out = frameOutcome s.cfg ((stream.drop j).take 9) ∧ t.rxq = stream.drop (j + 9)
      ((t.phase = .fSync ∧ t.out = .none) ∨ ended) ∧
      (∀ before, turns = before ++ List.replicate (j + 9) .block → ended)

/-- Noise tolerance, with R74 (a)'s precondition, in every interleaving in which the deadline does not expire: DECODE, then any
turns of the block, Line-in and the Clock that deliver, with what RXQ held, noise `p`, a well-formed frame of fields
`d, st, tc`, and anything `q`, and then `len(p) + 9` turns of the block, end with that frame's reading, `q` left in RXQ. -/
def Obligations.NoiseThenFrameIsRead : Prop :=
  ∀ (s : State) (turns : List Turn) (p q : List Byte) (d st tc : BitVec 16) (ck : Byte),
    s.schedule = .host .decode :: (turns ++ List.replicate (p.length + 9) .block) →
    (∀ u ∈ turns, u.whileWaiting = true) → s.cfg.rxqDepth = none →
    s.phase = .idle → s.driver.pending = .none → s.cfg.wf = true →
    elapsedOver turns < s.cfg.frameDeadlineMs →
    ck = cksum (measBytes s.cfg d st tc 0).dropLast →
    let stream := s.rxq ++ deliveredBytes turns
    stream = p ++ measBytes s.cfg d st tc ck ++ q →
    (∀ i, i < p.length → ¬(byteAt stream i = s.cfg.hdr0 ∧ byteAt stream (i + 1) = s.cfg.hdr1)) →
    ∃ t, Host.Core.run core (turns.length + p.length + 10) s = .next t ∧
      t.out = .reading d.toInt st.toInt (tempOfRaw s.cfg.tempShiftArith tc.toNat) (classify d.toInt st.toInt) ∧
      t.phase = .idle ∧ t.rxq = q ∧ t.txq = s.txq

/-- The block's rules read nothing of the host's software: replacing it (and the schedule and the counter of free values) changes
neither what an instruction does nor what a block's turn does (R102, R25). -/
def Obligations.BlockIgnoresHostSoftware : Prop :=
  ∀ (s : State) (d : Driver) (sched : List Turn) (k : Nat),
    (∀ i : Instr, exec i (s.withSurroundings d sched k) = mapNext (·.withSurroundings d sched k) (exec i s)) ∧
    (s.withSurroundings d sched k).blockStep = mapNext (·.withSurroundings d sched k) s.blockStep

/-- Nothing carries over from one attempt to the next: a start step gives the same state whatever the window, N, LEN, T0 and OUT
held, and one that awaits a reply whatever CUR held too (R25, R33 (b), R127). -/
def Obligations.NothingCarriesOver : Prop :=
  ∀ (s : State) (w : Window) (n len t0 : Nat) (out : Out) (cur : CmdName), s.phase = .idle →
    ({ s with w := w, n := n, len := len, t0 := t0, out := out } : State).decodeStart = s.decodeStart ∧
    ∀ c : Command, (s.cfg.row c.name).replyLength ≠ 0 →
      exec c.instr { s with w := w, n := n, len := len, t0 := t0, out := out, cur := cur } = exec c.instr s

/-! The host's software. -/

/-- A tick in Sleeping attempts no read and leaves the block as it is; health is reported as Sleeping and publication is
unavailable, signalled once (R105; the de-duplication is log entry 24). -/
def Obligations.SleepingTickReadsNothing : Prop :=
  ∀ s : State, s.hostFree = true → s.driver.device = .sleeping →
    ∃ t, s.hostStep .tick = .next t ∧ t.sameBlock s ∧ t.driver.device = .sleeping ∧ t.driver.pending = .none ∧
      t.driver.lastReported = some .sleeping ∧ t.driver.publishedUnavailable = true ∧
      t.driver.gate = if s.driver.publishedUnavailable then s.driver.gate else s.driver.gate ++ [.unavailable]

/-- A tick in Online always attempts a read; in Offline it does exactly when within the wake-grace window, or the back-off is
cleared, or the retry interval has elapsed, and is otherwise a no-op for the block (R106, R107, R110). The model's choices: the
window's edge is log entry 21, what counts as a retry 22, a cleared back-off 23, ages on the wrapping clock 36. -/
def Obligations.TickAttemptsRead : Prop :=
  ∀ s : State, s.hostFree = true → s.cfg.wf = true → s.driver.device ≠ .sleeping →
    let due := s.driver.device = .online ∨ s.driver.inGrace s.cfg s.now = true ∨ s.driver.lastRetry = none ∨
      ∃ r, s.driver.lastRetry = some r ∧ s.cfg.driver.retryIntervalMs ≤ timeSince s.cfg.nowWidth s.now r
    (due → ∃ t, s.hostStep .tick = .next t ∧ t.phase = .fSync ∧ t.driver.pending = .read ∧ t.rxq = s.rxq ∧
      t.txq = s.txq ∧ t.t0 = s.now ∧ (s.driver.device = .offline → t.driver.lastRetry = some s.now)) ∧
    (¬due → ∃ t, s.hostStep .tick = .next t ∧ t.sameBlock s ∧ t.driver.device = .offline ∧ t.driver.pending = .none)

/-- A successful read: Online, the time recorded, the reading handed to the gate, whatever its anomaly class (R108, R126; that the
time is NOW when the host takes the outcome is the model's choice, log entry 34). -/
def Obligations.GoodFrameGoesOnline : Prop :=
  ∀ (s : State) (d st tc : Int) (a : Anomaly), s.phase = .idle → s.driver.pending = .read → s.out = .reading d st tc a →
    ∃ t, s.hostStep .collect = .next t ∧ t.sameBlock s ∧ t.driver.device = .online ∧
      t.driver.lastGoodFrame = some s.now ∧ t.driver.gate = s.driver.gate ++ [.reading d st tc a] ∧
      t.driver.pending = .none ∧ (s.driver.device ≠ .online → t.driver.publishedUnavailable = false)

/-- Offline is declared once. After a failed read, with no good frame ever or the last one longer ago than the threshold (5 s
inside the wake-grace window, else 1 s, both parameters), a host not yet Offline goes Offline and emits exactly one
"unavailable" signal, and one already Offline emits none; otherwise device state and gate stay as they are. The reason is
the last reported status, and the error tracker recorded it (R109, R114, X5). The model's choices: "longer than" is log
entry 21, the time is NOW at the turn in which the host takes the outcome, log entry 34, ages wrap with NOW, log entry 36. -/
def Obligations.OfflineDeclaredOnce : Prop :=
  ∀ (s : State) (r : FrameReason), s.phase = .idle → s.driver.pending = .read → s.out = .frameFail r →
    let threshold :=
      if s.driver.inGrace s.cfg s.now then s.cfg.driver.offlineTimeoutGraceMs else s.cfg.driver.offlineTimeoutMs
    let silent := ∀ g, s.driver.lastGoodFrame = some g → threshold < timeSince s.cfg.nowWidth s.now g
    ∃ t, s.hostStep .collect = .next t ∧ t.sameBlock s ∧ t.driver.pending = .none ∧
      t.driver.lastReported = some r.status ∧ t.driver.lastGoodFrame = s.driver.lastGoodFrame ∧
      (∃ emits, t.driver.reports = (s.driver.record s.cfg s.now emits r.status).reports ∧
        t.driver.lastErrorLog = (s.driver.record s.cfg s.now emits r.status).lastErrorLog ∧
        t.driver.errorWindowCount = (s.driver.record s.cfg s.now emits r.status).errorWindowCount ∧
        t.driver.errorWindowStart = (s.driver.record s.cfg s.now emits r.status).errorWindowStart) ∧
      (silent → t.driver.device = .offline ∧
        t.driver.gate = if s.driver.device = .offline then s.driver.gate else s.driver.gate ++ [.unavailable]) ∧
      (¬silent → t.driver.device = s.driver.device ∧ t.driver.gate = s.driver.gate)

/-- sleep() and wake(), when their command has ended: the operation is over and the result is the last reported status. On Pass
sleep() leaves Sleeping and one "unavailable" signal; wake() leaves Offline with the gate unchanged, the back-off cleared so
that any next tick reads, and the wake-grace window open for its length, whatever NOW is. On any other outcome device state,
gate, back-off and window stay (R111, R113, R115, X6). The model's choices: repeated sleep() and wake() are log entry 33, the
window's start at the turn in which the host takes the outcome log entry 34, its last instant log entry 21. -/
def Obligations.SleepAndWakeOutcomes : Prop :=
  ∀ (s : State) (r : CmdResult), s.phase = .idle → s.out = .cmd r →
    (s.driver.pending = .sleep → ∃ t, s.hostStep .collect = .next t ∧ t.sameBlock s ∧ t.driver.pending = .none ∧
      t.driver.lastReported = some r.status ∧ t.driver.lastRetry = s.driver.lastRetry ∧
      t.driver.wakeGraceDeadline = s.driver.wakeGraceDeadline ∧
      (r = .pass → t.driver.device = .sleeping ∧ t.driver.gate = s.driver.gate ++ [.unavailable]) ∧
      (r ≠ .pass → t.driver.device = s.driver.device ∧ t.driver.gate = s.driver.gate)) ∧
    (s.driver.pending = .wake → ∃ t, s.hostStep .collect = .next t ∧ t.sameBlock s ∧ t.driver.pending = .none ∧
      t.driver.lastReported = some r.status ∧ t.driver.gate = s.driver.gate ∧
      (r = .pass → t.driver.device = .offline ∧
        t.driver.wakeGraceDeadline = some ((s.now + s.cfg.driver.wakeGraceMs) % 2 ^ s.cfg.nowWidth) ∧
        (∀ now, t.driver.readsThisTick s.cfg now = true) ∧
        (s.cfg.driver.wakeGraceMs < 2 ^ s.cfg.nowWidth → ∀ ms, ms < s.cfg.driver.wakeGraceMs →
          t.driver.inGrace s.cfg ((s.now + ms) % 2 ^ s.cfg.nowWidth) = true) ∧
        t.driver.inGrace s.cfg ((s.now + s.cfg.driver.wakeGraceMs) % 2 ^ s.cfg.nowWidth) = false) ∧
      (r ≠ .pass → t.driver.device = s.driver.device ∧ t.driver.lastRetry = s.driver.lastRetry ∧
        t.driver.wakeGraceDeadline = s.driver.wakeGraceDeadline))

/-- The error-rate tracker. A failure counts; a window that is over, or not yet begun, restarts at the failure with count 1. A
report is allowed when none was emitted within the window's length; it is emitted exactly when allowed and chosen, with the
count and the status, and only then is its time recorded; nothing else of the host is written. So, however many failures
follow a report within the window's length of it, none of them adds a report (R114, X8; which allowed report is emitted is
free, log entry 24; where a window restarts and the count of a report at a boundary are the model's choice, log entry 32, and so
are ages on the wrapping clock, log entry 36). -/
def Obligations.ReportsRateLimited : Prop :=
  (∀ (cfg : Cfg) (now : Nat) (emits : Bool) (status : StatusCode) (d : Driver),
    let goesOn := ∃ t, d.errorWindowStart = some t ∧ timeSince cfg.nowWidth now t < cfg.driver.errorWindowMs
    let allowed := ∀ t, d.lastErrorLog = some t → cfg.driver.errorWindowMs ≤ timeSince cfg.nowWidth now t
    let r := d.record cfg now emits status
    (goesOn → r.errorWindowCount = d.errorWindowCount + 1 ∧ r.errorWindowStart = d.errorWindowStart) ∧
    (¬goesOn → r.errorWindowCount = 1 ∧ r.errorWindowStart = some now) ∧
    (emits = true ∧ allowed → r.reports = d.reports ++ [(r.errorWindowCount, status)] ∧ r.lastErrorLog = some now) ∧
    (¬(emits = true ∧ allowed) → r.reports = d.reports ∧ r.lastErrorLog = d.lastErrorLog) ∧
    r = { d with
      errorWindowCount := r.errorWindowCount, errorWindowStart := r.errorWindowStart, reports := r.reports,
      lastErrorLog := r.lastErrorLog }) ∧
  (∀ (cfg : Cfg) (t : Nat) (d : Driver) (failures : List (Nat × Bool × StatusCode)), d.lastErrorLog = some t →
    (∀ f ∈ failures, timeSince cfg.nowWidth f.1 t < cfg.driver.errorWindowMs) →
    (failures.foldl (fun e f => e.record cfg f.1 f.2.1 f.2.2) d).reports = d.reports)
end

