-- ==== Sys2Proof/Laws/Driver.lean ====
section
/-! SUPPORT. What the operations of the host's software do, said once. -/

namespace Sys2Proof.Machine

/-- Forgetting a wake-grace window that is over does not move its edge (R119). -/
theorem Driver.inGrace_expireGrace (cfg : Cfg) (now : Nat) (d : Driver) :
    (d.expireGrace cfg now).inGrace cfg now = d.inGrace cfg now := by
  unfold Driver.expireGrace
  by_cases h : d.inGrace cfg now = true
  · rw [if_pos h]
  · rw [if_neg h]
    simp only [Bool.not_eq_true] at h
    rw [h]
    rfl

/-- Everything the count of a failure does (R114). -/
theorem Driver.countError_cases (cfg : Cfg) (now : Nat) (d : Driver) :
    ((∃ t, d.errorWindowStart = some t ∧ timeSince cfg.nowWidth now t < cfg.driver.errorWindowMs) ∧
      d.countError cfg now = { d with errorWindowCount := d.errorWindowCount + 1 }) ∨
    ((∀ t, d.errorWindowStart = some t → cfg.driver.errorWindowMs ≤ timeSince cfg.nowWidth now t) ∧
      d.countError cfg now = { d with errorWindowStart := some now, errorWindowCount := 1 }) := by
  unfold Driver.countError
  split
  · rename_i h
    exact .inr ⟨fun t ht => by simp [h] at ht, rfl⟩
  · rename_i t h
    split
    · rename_i hl
      exact .inr ⟨fun t' ht => by simp_all, rfl⟩
    · exact .inl ⟨⟨t, h, by omega⟩, rfl⟩

/-- Everything `record` does (R114): it counts, and it may add one report. -/
theorem Driver.record_cases (cfg : Cfg) (now : Nat) (emits : Bool) (status : StatusCode) (d : Driver) :
    ((emits && d.reportAllowed cfg now) = true ∧
      d.record cfg now emits status = { d.countError cfg now with
        reports := (d.countError cfg now).reports ++ [((d.countError cfg now).errorWindowCount, status)]
        lastErrorLog := some now }) ∨
    ((emits && d.reportAllowed cfg now) = false ∧ d.record cfg now emits status = d.countError cfg now) := by
  cases h : emits && d.reportAllowed cfg now
  · exact .inr ⟨rfl, by simp [Driver.record, h]⟩
  · exact .inl ⟨rfl, by simp [Driver.record, h]⟩

/-- What a failed read leaves to the declaration of Offline (R109): the last reported status, the device state, the gate with
its flag, and the retry time; nothing else. -/
theorem Driver.declareOffline_frame (cfg : Cfg) (now : Nat) (r : FrameReason) (d : Driver) :
    ∃ device gate flag retry reported, d.declareOffline cfg now r = { d with
      device := device, gate := gate, publishedUnavailable := flag, lastRetry := retry, lastReported := reported } := by
  unfold Driver.declareOffline
  dsimp only
  split
  · split
    · split <;> exact ⟨_, _, _, _, _, rfl⟩
    · split <;> exact ⟨_, _, _, _, _, rfl⟩
  · exact ⟨_, _, _, _, _, rfl⟩

end Sys2Proof.Machine
end

