-- ==== Sys2Proof/Laws/Operands.lean ====
section
/-! SUPPORT. What the operand forms do: the window by index, little-endian numbers, the checksum, the time difference, and
the bytes of the formats. -/

namespace Sys2Proof

/-! The window. -/

theorem Window.reg_ofFn (f : Nat → Byte) {i : Nat} (h : i < 9) : (Window.ofFn f).reg i = f i := by
  interval_cases i <;> rfl

theorem Window.reg_zero (i : Nat) : Window.zero.reg i = 0 := by
  unfold Window.reg
  split <;> rfl

/-- SHIFT by index (R61). -/
theorem Window.reg_shift (w : Window) (len : Nat) (b : Byte) {i : Nat} (h : i < 9) :
    (w.shift len b).reg i = if i + 1 < len then w.reg (i + 1) else if i + 1 = len then b else w.reg i :=
  Window.reg_ofFn _ h

@[simp] theorem Window.length_bytes (w : Window) (len : Nat) : (w.bytes len).length = len := by
  simp [Window.bytes]

theorem Window.byteAt_bytes (w : Window) {len i : Nat} (h : i < len) : byteAt (w.bytes len) i = w.reg i := by
  simp [byteAt, Window.bytes, List.getD_eq_getElem?_getD, h]

/-- The bytes of a shifted window: all but the oldest, and the new one (R61). -/
theorem Window.bytes_shift (w : Window) {len : Nat} (b : Byte) (hpos : 0 < len) (hle : len ≤ 9) :
    (w.shift len b).bytes len = (w.bytes len).tail ++ [b] := by
  apply List.ext_getElem
  · simp [Nat.sub_add_cancel hpos]
  · intro i h1 _
    have hi : i < len := by simpa using h1
    simp only [Window.bytes, List.getElem_map, List.getElem_range, List.getElem_append, List.length_tail,
      List.length_map, List.length_range, List.getElem_tail, List.getElem_singleton]
    rw [Window.reg_shift w len b (by omega)]
    split <;> split <;> first | rfl | omega | (split <;> first | rfl | omega)

/-! Little-endian numbers. -/

@[simp] theorem length_bytesLE (v w : Nat) : (bytesLE v w).length = w := by
  induction w generalizing v with
  | zero => rfl
  | succ w ih => simp [bytesLE, ih]

@[simp] theorem toNat_low8 (v : Nat) : (low8 v).toNat = v % 256 := by simp [low8]

/-- `bytes_le` and the little-endian reading undo each other on values that fit (R12). -/
theorem uLE_bytesLE (v w : Nat) : uLE (bytesLE v w) = v % 256 ^ w := by
  induction w generalizing v with
  | zero => simp [uLE, bytesLE, Nat.mod_one]
  | succ w ih => rw [bytesLE, uLE, ih, toNat_low8, Nat.pow_succ', Nat.mod_mul]

theorem u16le_lt (lo hi : Byte) : u16le lo hi < 65536 := by
  have := lo.isLt
  have := hi.isLt
  unfold u16le
  omega

/-- `s16` of a 16-bit pattern is its two's complement value (R12). -/
theorem s16_toNat (v : BitVec 16) : s16 v.toNat = v.toInt := by
  have := v.isLt
  unfold s16
  rw [BitVec.toInt_eq_toNat_cond]
  split <;> split <;> first | rfl | omega

/-- `s16` of a 16-bit number fits an `i16`. -/
theorem s16_range {v : Nat} (h : v < 65536) : -32768 ≤ s16 v ∧ s16 v ≤ 32767 := by
  unfold s16
  split <;> omega

/-- A 16-bit pattern is the little-endian value of its own two bytes (R40). -/
theorem u16le_bytes (v : BitVec 16) : u16le (low8 v.toNat) (low8 (v.toNat / 256)) = v.toNat := by
  have := v.isLt
  simp only [u16le, toNat_low8]
  omega

/-! The rows of the table. -/

/-- A row's own opcode byte and length find a row with the same two, the row itself when the opcode bytes differ (R59). -/
theorem Cfg.lookup_row (cfg : Cfg) (c : CmdName) :
    ∃ c', cfg.lookup (cfg.row c).opcodeByte (cfg.row c).commandLength = some c' ∧
      (cfg.row c').opcodeByte = (cfg.row c).opcodeByte ∧ (cfg.row c').commandLength = (cfg.row c).commandLength ∧
      (cfg.opcodesDistinct = true → c' = c) := by
  have hsome : (cfg.lookup (cfg.row c).opcodeByte (cfg.row c).commandLength).isSome = true := by
    rw [Cfg.lookup, List.find?_isSome]
    exact ⟨c, by cases c <;> decide, by simp⟩
  obtain ⟨c', hc⟩ := Option.isSome_iff_exists.1 hsome
  have hrow := List.find?_some hc
  simp only [Bool.and_eq_true, beq_iff_eq] at hrow
  refine ⟨c', hc, hrow.1, hrow.2, fun hd => ?_⟩
  have hop := hrow.1
  simp only [Cfg.opcodesDistinct, decide_eq_true_eq, cmdNames, List.map, List.nodup_cons, List.mem_cons] at hd
  revert hop
  cases c <;> cases c' <;> intro hop <;> first | rfl | (exfalso; tauto)

/-! The checksum. -/

@[simp] theorem cksum_nil : cksum [] = 0 := rfl

/-- The sum with one final reduction is the sum of an 8-bit accumulator that wraps at each addition (R53). -/
theorem cksum_append_singleton (s : List Byte) (b : Byte) : cksum (s ++ [b]) = cksum s + b := by
  apply BitVec.eq_of_toNat_eq
  simp [cksum, low8, List.sum_append, BitVec.toNat_add]

theorem cksum_cons (b : Byte) (s : List Byte) : cksum (b :: s) = b + cksum s := by
  apply BitVec.eq_of_toNat_eq
  simp [cksum, low8, BitVec.toNat_add]

/-- Validity of a frame given as its bytes and its last byte (R53). -/
theorem cksumValid_append (s : List Byte) (ck : Byte) : cksumValid (s ++ [ck]) = (ck == cksum s) := by
  simp [cksumValid, List.getLastD_eq_getLast?]

/-! The time difference. -/

theorem timeSince_lt (width now t : Nat) : timeSince width now t < 2 ^ width :=
  Nat.mod_lt _ (by positivity)

theorem timeSince_self (width t : Nat) : timeSince width t t = 0 := by
  have hpos : 0 < 2 ^ width := by positivity
  have ht := Nat.mod_lt t hpos
  have hd := Nat.div_add_mod t (2 ^ width)
  unfold timeSince
  have : t + (2 ^ width - t % 2 ^ width) = 2 ^ width * (t / 2 ^ width + 1) := by
    rw [Nat.mul_add, Nat.mul_one]
    omega
  rw [this, Nat.mul_mod_right]

/-! The bytes of the formats. -/

@[simp] theorem length_measBytes (cfg : Cfg) (d s t : BitVec 16) (ck : Byte) :
    (measBytes cfg d s t ck).length = frameLen := by
  simp [measBytes, frameLen]

@[simp] theorem length_replyBytes (cfg : Cfg) (body : List Byte) (ck : Byte) :
    (replyBytes cfg body ck).length = body.length + 3 := by
  simp [replyBytes]

@[simp] theorem length_encodeCommand (cfg : Cfg) (d : Descriptor) (p : Nat) :
    (encodeCommand cfg d p).length = d.paramWidth + 4 := by
  simp [encodeCommand, commandBody]

end Sys2Proof
end

