-- ==== Sys2Proof/Laws/State.lean ====
section
/-! SUPPORT. One lemma per field per update of the state, each true by rfl, so that no later proof unfolds an update. -/

namespace Sys2Proof.Machine

/-! `finish` (R125). -/

@[simp] theorem State.finish_cfg (o : Out) (s : State) : (s.finish o).cfg = s.cfg := rfl
@[simp] theorem State.finish_w (o : Out) (s : State) : (s.finish o).w = s.w := rfl
@[simp] theorem State.finish_n (o : Out) (s : State) : (s.finish o).n = s.n := rfl
@[simp] theorem State.finish_len (o : Out) (s : State) : (s.finish o).len = s.len := rfl
@[simp] theorem State.finish_phase (o : Out) (s : State) : (s.finish o).phase = .idle := rfl
@[simp] theorem State.finish_t0 (o : Out) (s : State) : (s.finish o).t0 = s.t0 := rfl
@[simp] theorem State.finish_cur (o : Out) (s : State) : (s.finish o).cur = s.cur := rfl
@[simp] theorem State.finish_out (o : Out) (s : State) : (s.finish o).out = o := rfl
@[simp] theorem State.finish_rxq (o : Out) (s : State) : (s.finish o).rxq = s.rxq := rfl
@[simp] theorem State.finish_txq (o : Out) (s : State) : (s.finish o).txq = s.txq := rfl
@[simp] theorem State.finish_now (o : Out) (s : State) : (s.finish o).now = s.now := rfl
@[simp] theorem State.finish_driver (o : Out) (s : State) : (s.finish o).driver = s.driver := rfl
@[simp] theorem State.finish_schedule (o : Out) (s : State) : (s.finish o).schedule = s.schedule := rfl
@[simp] theorem State.finish_free (o : Out) (s : State) : (s.finish o).free = s.free := rfl

/-! `RxDrain` (R42). -/

@[simp] theorem State.rxDrain_cfg (s : State) : (s.rxDrain).cfg = s.cfg := rfl
@[simp] theorem State.rxDrain_w (s : State) : (s.rxDrain).w = s.w := rfl
@[simp] theorem State.rxDrain_n (s : State) : (s.rxDrain).n = s.n := rfl
@[simp] theorem State.rxDrain_len (s : State) : (s.rxDrain).len = s.len := rfl
@[simp] theorem State.rxDrain_phase (s : State) : (s.rxDrain).phase = s.phase := rfl
@[simp] theorem State.rxDrain_t0 (s : State) : (s.rxDrain).t0 = s.t0 := rfl
@[simp] theorem State.rxDrain_cur (s : State) : (s.rxDrain).cur = s.cur := rfl
@[simp] theorem State.rxDrain_out (s : State) : (s.rxDrain).out = s.out := rfl
@[simp] theorem State.rxDrain_rxq (s : State) : (s.rxDrain).rxq = [] := rfl
@[simp] theorem State.rxDrain_txq (s : State) : (s.rxDrain).txq = s.txq := rfl
@[simp] theorem State.rxDrain_now (s : State) : (s.rxDrain).now = s.now := rfl
@[simp] theorem State.rxDrain_driver (s : State) : (s.rxDrain).driver = s.driver := rfl
@[simp] theorem State.rxDrain_schedule (s : State) : (s.rxDrain).schedule = s.schedule := rfl
@[simp] theorem State.rxDrain_free (s : State) : (s.rxDrain).free = s.free := rfl

/-! `TxPush` (R38). -/

@[simp] theorem State.txPush_cfg (seq : List Byte) (s : State) : (s.txPush seq).cfg = s.cfg := rfl
@[simp] theorem State.txPush_w (seq : List Byte) (s : State) : (s.txPush seq).w = s.w := rfl
@[simp] theorem State.txPush_n (seq : List Byte) (s : State) : (s.txPush seq).n = s.n := rfl
@[simp] theorem State.txPush_len (seq : List Byte) (s : State) : (s.txPush seq).len = s.len := rfl
@[simp] theorem State.txPush_phase (seq : List Byte) (s : State) : (s.txPush seq).phase = s.phase := rfl
@[simp] theorem State.txPush_t0 (seq : List Byte) (s : State) : (s.txPush seq).t0 = s.t0 := rfl
@[simp] theorem State.txPush_cur (seq : List Byte) (s : State) : (s.txPush seq).cur = s.cur := rfl
@[simp] theorem State.txPush_out (seq : List Byte) (s : State) : (s.txPush seq).out = s.out := rfl
@[simp] theorem State.txPush_rxq (seq : List Byte) (s : State) : (s.txPush seq).rxq = s.rxq := rfl
@[simp] theorem State.txPush_txq (seq : List Byte) (s : State) : (s.txPush seq).txq = s.txq ++ seq := rfl
@[simp] theorem State.txPush_now (seq : List Byte) (s : State) : (s.txPush seq).now = s.now := rfl
@[simp] theorem State.txPush_driver (seq : List Byte) (s : State) : (s.txPush seq).driver = s.driver := rfl
@[simp] theorem State.txPush_schedule (seq : List Byte) (s : State) : (s.txPush seq).schedule = s.schedule := rfl
@[simp] theorem State.txPush_free (seq : List Byte) (s : State) : (s.txPush seq).free = s.free := rfl

/-! `SHIFT` (R61). -/

@[simp] theorem State.shift_cfg (b : Byte) (s : State) : (s.shift b).cfg = s.cfg := rfl
@[simp] theorem State.shift_w (b : Byte) (s : State) : (s.shift b).w = s.w.shift s.len b := rfl
@[simp] theorem State.shift_n (b : Byte) (s : State) : (s.shift b).n = min (s.n + 1) s.len := rfl
@[simp] theorem State.shift_len (b : Byte) (s : State) : (s.shift b).len = s.len := rfl
@[simp] theorem State.shift_phase (b : Byte) (s : State) : (s.shift b).phase = s.phase := rfl
@[simp] theorem State.shift_t0 (b : Byte) (s : State) : (s.shift b).t0 = s.t0 := rfl
@[simp] theorem State.shift_cur (b : Byte) (s : State) : (s.shift b).cur = s.cur := rfl
@[simp] theorem State.shift_out (b : Byte) (s : State) : (s.shift b).out = s.out := rfl
@[simp] theorem State.shift_rxq (b : Byte) (s : State) : (s.shift b).rxq = s.rxq := rfl
@[simp] theorem State.shift_txq (b : Byte) (s : State) : (s.shift b).txq = s.txq := rfl
@[simp] theorem State.shift_now (b : Byte) (s : State) : (s.shift b).now = s.now := rfl
@[simp] theorem State.shift_driver (b : Byte) (s : State) : (s.shift b).driver = s.driver := rfl
@[simp] theorem State.shift_schedule (b : Byte) (s : State) : (s.shift b).schedule = s.schedule := rfl
@[simp] theorem State.shift_free (b : Byte) (s : State) : (s.shift b).free = s.free := rfl

/-! the start of an attempt (R62, R77). -/

@[simp] theorem State.beginAttempt_cfg (ph : Phase) (len : Nat) (s : State) : (s.beginAttempt ph len).cfg = s.cfg := rfl
@[simp] theorem State.beginAttempt_w (ph : Phase) (len : Nat) (s : State) : (s.beginAttempt ph len).w = Window.zero := rfl
@[simp] theorem State.beginAttempt_n (ph : Phase) (len : Nat) (s : State) : (s.beginAttempt ph len).n = 0 := rfl
@[simp] theorem State.beginAttempt_len (ph : Phase) (len : Nat) (s : State) : (s.beginAttempt ph len).len = len := rfl
@[simp] theorem State.beginAttempt_phase (ph : Phase) (len : Nat) (s : State) : (s.beginAttempt ph len).phase = ph := rfl
@[simp] theorem State.beginAttempt_t0 (ph : Phase) (len : Nat) (s : State) : (s.beginAttempt ph len).t0 = s.now := rfl
@[simp] theorem State.beginAttempt_cur (ph : Phase) (len : Nat) (s : State) : (s.beginAttempt ph len).cur = s.cur := rfl
@[simp] theorem State.beginAttempt_out (ph : Phase) (len : Nat) (s : State) : (s.beginAttempt ph len).out = .none := rfl
@[simp] theorem State.beginAttempt_rxq (ph : Phase) (len : Nat) (s : State) : (s.beginAttempt ph len).rxq = s.rxq := rfl
@[simp] theorem State.beginAttempt_txq (ph : Phase) (len : Nat) (s : State) : (s.beginAttempt ph len).txq = s.txq := rfl
@[simp] theorem State.beginAttempt_now (ph : Phase) (len : Nat) (s : State) : (s.beginAttempt ph len).now = s.now := rfl
@[simp] theorem State.beginAttempt_driver (ph : Phase) (len : Nat) (s : State) : (s.beginAttempt ph len).driver = s.driver := rfl
@[simp] theorem State.beginAttempt_schedule (ph : Phase) (len : Nat) (s : State) : (s.beginAttempt ph len).schedule = s.schedule := rfl
@[simp] theorem State.beginAttempt_free (ph : Phase) (len : Nat) (s : State) : (s.beginAttempt ph len).free = s.free := rfl

/-! the Clock's turn (R28). -/

@[simp] theorem State.clock_cfg (ms : Nat) (s : State) : (s.clock ms).cfg = s.cfg := rfl
@[simp] theorem State.clock_w (ms : Nat) (s : State) : (s.clock ms).w = s.w := rfl
@[simp] theorem State.clock_n (ms : Nat) (s : State) : (s.clock ms).n = s.n := rfl
@[simp] theorem State.clock_len (ms : Nat) (s : State) : (s.clock ms).len = s.len := rfl
@[simp] theorem State.clock_phase (ms : Nat) (s : State) : (s.clock ms).phase = s.phase := rfl
@[simp] theorem State.clock_t0 (ms : Nat) (s : State) : (s.clock ms).t0 = s.t0 := rfl
@[simp] theorem State.clock_cur (ms : Nat) (s : State) : (s.clock ms).cur = s.cur := rfl
@[simp] theorem State.clock_out (ms : Nat) (s : State) : (s.clock ms).out = s.out := rfl
@[simp] theorem State.clock_rxq (ms : Nat) (s : State) : (s.clock ms).rxq = s.rxq := rfl
@[simp] theorem State.clock_txq (ms : Nat) (s : State) : (s.clock ms).txq = s.txq := rfl
@[simp] theorem State.clock_now (ms : Nat) (s : State) : (s.clock ms).now = (s.now + ms) % 2 ^ s.cfg.nowWidth := rfl
@[simp] theorem State.clock_driver (ms : Nat) (s : State) : (s.clock ms).driver = s.driver := rfl
@[simp] theorem State.clock_schedule (ms : Nat) (s : State) : (s.clock ms).schedule = s.schedule := rfl
@[simp] theorem State.clock_free (ms : Nat) (s : State) : (s.clock ms).free = s.free := rfl


end Sys2Proof.Machine
end

