-- ==== Sys2Proof/Laws/Ops.lean ====
section
/-! SUPPORT. What each shared operation can do, said once. -/

namespace Sys2Proof.Machine

/-! RxPop (R37). -/

theorem State.rxPop_nil {s : State} (h : s.rxq = []) : s.rxPop = none := by
  simp [State.rxPop, h]

theorem State.rxPop_cons {s : State} {b : Byte} {q : List Byte} (h : s.rxq = b :: q) :
    s.rxPop = some (b, { s with rxq := q }) := by
  simp [State.rxPop, h]

/-! Start steps (R47, R30). -/

theorem State.start_of_idle {k : State → State} {s : State} (hp : s.phase = .idle) (hw : s.cfg.wf = true) :
    s.start k = .next (k s) := by
  simp [State.start, hp, hw]

theorem State.start_of_busy {k : State → State} {s : State} (hp : s.phase ≠ .idle) :
    s.start k = .fault .startWhileBusy := by
  simp [State.start, hp]

theorem State.start_of_illFormed {k : State → State} {s : State} (hp : s.phase = .idle) (hw : s.cfg.wf = false) :
    s.start k = .refused .illFormedTable := by
  simp [State.start, hp, hw]

/-- Everything a start step can do when it answers a next state. -/
theorem State.start_next {k : State → State} {s t : State} (h : s.start k = .next t) :
    s.phase = .idle ∧ s.cfg.wf = true ∧ t = k s := by
  unfold State.start at h
  split at h
  · cases h
  · split at h
    · cases h
    · rename_i hp hw
      cases h
      exact ⟨by simpa using hp, by simpa using hw, rfl⟩

/-- Everything SEND's effect can be (R77): the reply awaited, or fire-and-forget (R83). -/
theorem State.sendStep_cases (c : CmdName) (p : Nat) (s : State) :
    ((s.cfg.row c).replyLength = 0 ∧
      s.sendStep c p = { s with rxq := [], txq := s.txq ++ encodeCommand s.cfg (s.cfg.row c) p,
                                out := .cmd .pass, phase := .idle }) ∨
    ((s.cfg.row c).replyLength ≠ 0 ∧
      s.sendStep c p = { s with rxq := [], txq := s.txq ++ encodeCommand s.cfg (s.cfg.row c) p,
                                w := Window.zero, n := 0, len := (s.cfg.row c).replyLength, t0 := s.now,
                                out := .none, phase := .rSync, cur := c }) := by
  by_cases h : (s.cfg.row c).replyLength = 0
  · exact .inl ⟨h, by simp [State.sendStep, h, State.rxDrain, State.txPush, State.finish]⟩
  · exact .inr ⟨h, by simp [State.sendStep, h, State.rxDrain, State.txPush, State.beginAttempt]⟩

/-! The reception of a full window (R57). -/

/-- Everything the reception of a window can do: nothing, or one end of the attempt. -/
theorem State.receive_cases (f : List Byte) (s : State) :
    s.receive f = s ∨
    (s.phase = .fSync ∧ isFrameCandidate s.cfg f = true ∧ s.receive f = s.finish (frameOutcome s.cfg f)) ∨
    (s.phase = .rSync ∧ isReplyCandidate s.cfg s.len f = true ∧
      s.receive f = s.finish (.cmd (replyResult s.cfg s.cur f))) := by
  unfold State.receive
  split
  · exact .inl rfl
  · rename_i hp
    split
    · rename_i hc
      exact .inr (.inl ⟨hp, hc, rfl⟩)
    · exact .inl rfl
  · rename_i hp
    split
    · rename_i hc
      exact .inr (.inr ⟨hp, hc, rfl⟩)
    · exact .inl rfl

theorem State.receive_of_fSync {f : List Byte} {s : State} (hp : s.phase = .fSync)
    (hc : isFrameCandidate s.cfg f = true) : s.receive f = s.finish (frameOutcome s.cfg f) := by
  simp [State.receive, hp, hc]

theorem State.receive_of_rSync {f : List Byte} {s : State} (hp : s.phase = .rSync)
    (hc : isReplyCandidate s.cfg s.len f = true) : s.receive f = s.finish (.cmd (replyResult s.cfg s.cur f)) := by
  simp [State.receive, hp, hc]

theorem State.receive_of_idle {f : List Byte} {s : State} (hp : s.phase = .idle) : s.receive f = s := by
  simp [State.receive, hp]

/-- An M9 frame is a candidate (R51, R66). -/
theorem isFrameCandidate_measBytes (cfg : Cfg) (d s t : BitVec 16) (ck : Byte) :
    isFrameCandidate cfg (measBytes cfg d s t ck) = true := by
  simp [isFrameCandidate, measBytes, byteAt, frameLen]

/-- A reply of the active length is a candidate (R55, R92). -/
theorem isReplyCandidate_replyBytes (cfg : Cfg) {len : Nat} {body : List Byte} (ck : Byte)
    (hb : body.length + 3 = len) (hl : len ≤ 9) : isReplyCandidate cfg len (replyBytes cfg body ck) = true := by
  have hmod : (body.length + 3) % 256 = body.length + 3 := Nat.mod_eq_of_lt (by omega)
  subst hb
  have hb0 : byteAt (replyBytes cfg body ck) 0 = cfg.cmdLead := by simp [byteAt, replyBytes]
  have hb1 : byteAt (replyBytes cfg body ck) 1 = low8 (body.length + 3) := by simp [byteAt, replyBytes]
  simp only [isReplyCandidate, hb0, hb1, length_replyBytes, toNat_low8, hmod, beq_self_eq_true, Bool.and_self]

/-! The environment's turns. -/

theorem State.lineIn_unbounded {s : State} (b : Byte) (h : s.cfg.rxqDepth = none) :
    s.lineIn b = { s with rxq := s.rxq ++ [b] } := by
  simp [State.lineIn, h]

/-- Everything Line-in can do: it writes `RXQ` and the counter of free values, and nothing else (R26, U4). -/
theorem State.lineIn_cases (b : Byte) (s : State) : ∃ q k, s.lineIn b = { s with rxq := q, free := k } := by
  unfold State.lineIn
  split
  · exact ⟨_, _, rfl⟩
  · split
    · exact ⟨_, _, rfl⟩
    · exact ⟨_, _, rfl⟩

/-- The counter of free values and the schedule are no part of what the block reads: `elapsed` (R130) sees the clock only. -/
theorem State.elapsed_lt (s : State) : s.elapsed < 2 ^ s.cfg.nowWidth := timeSince_lt _ _ _

end Sys2Proof.Machine
end

