-- ==== Sys2Proof/Laws/Micro.lean ====
section
/-! SUPPORT. What a micro-step of the block, and a step of the machine, can do, said once. -/

namespace Sys2Proof.Machine

/-- Every inbound instruction answers a next state: the reception of its own bytes (R57). -/
theorem exec_inbound {i : Instr} (h : isInbound i) (s : State) : exec i s = .next (s.receive (encode s.cfg i)) := by
  cases i <;> first | rfl | exact absurd rfl h

/-- Every outbound instruction is the start step of its row (R77). -/
theorem exec_command (c : Command) (s : State) : ∃ p, exec c.instr s = s.send c.name p ∧
    encode s.cfg c.instr = encodeCommand s.cfg (s.cfg.row c.name) p := by
  cases c <;> exact ⟨_, rfl, rfl⟩

theorem context_commandInstr (c : CmdName) (p : Nat) : (commandInstr c p).context = .outbound := by
  cases c <;> rfl

theorem context_replyInstr (c : CmdName) (body : List Byte) (ck : Byte) : (replyInstr c body ck).context = .reply c := by
  cases c <;> rfl

/-- What a window decodes to is met in the context it was decoded in. -/
theorem context_of_decode {cfg : Cfg} {x : Context} {f : List Byte} {i : Instr} (h : decode cfg x f = .ok i) :
    i.context = x := by
  cases x with
  | outbound =>
    simp only [decode, decodeOutbound] at h
    repeat' split at h
    all_goals cases h
    exact context_commandInstr _ _
  | measurement =>
    simp only [decode, decodeMeasurement] at h
    repeat' split at h
    all_goals cases h
    rfl
  | reply c =>
    simp only [decode, decodeReply] at h
    repeat' split at h
    all_goals cases h
    exact context_replyInstr _ _ _

/-- A window in a sync phase decodes to an inbound instruction only. -/
theorem inbound_of_window {s : State} {i : Instr} (h : decode s.cfg s.context s.window = .ok i) : isInbound i := by
  have hx := context_of_decode h
  unfold isInbound
  rw [hx, State.context]
  split <;> simp

/-- Everything the candidate test can do (R66, R92): nothing, or the decoded instruction. -/
theorem State.testWindow_cases (s : State) :
    s.testWindow = .next s ∨
    ∃ i, s.n = s.len ∧ decode s.cfg s.context s.window = .ok i ∧ isInbound i ∧
      s.testWindow = .next (s.receive (encode s.cfg i)) := by
  unfold State.testWindow
  split
  · rename_i hn
    split
    · rename_i i hi
      exact .inr ⟨i, hn, hi, inbound_of_window hi, exec_inbound (inbound_of_window hi) s⟩
    · exact .inl rfl
  · exact .inl rfl

/-- Everything one loop iteration can do (R63, R89). -/
theorem State.syncStep_cases (deadlineMs : Nat) (expiry : Out) (s : State) :
    (deadlineMs ≤ s.elapsed ∧ s.syncStep deadlineMs expiry = .next (s.finish expiry)) ∨
    (s.elapsed < deadlineMs ∧ s.rxq = [] ∧ s.syncStep deadlineMs expiry = .next s) ∨
    ∃ b q, s.elapsed < deadlineMs ∧ s.rxq = b :: q ∧
      s.syncStep deadlineMs expiry = ({ s with rxq := q }.shift b).testWindow := by
  unfold State.syncStep
  split
  · rename_i h
    exact .inl ⟨h, rfl⟩
  · rename_i h
    cases hq : s.rxq with
    | nil => exact .inr (.inl ⟨by omega, rfl, by simp [State.rxPop, hq]⟩)
    | cons b q => exact .inr (.inr ⟨b, q, by omega, rfl, by simp [State.rxPop, hq]⟩)

/-- Everything the block's turn can do: stutter, end the attempt at its deadline, or take one byte and test the window. -/
theorem State.blockStep_cases (s : State) :
    (s.phase = .idle ∧ s.blockStep = .next s) ∨
    (s.phase = .fSync ∧ s.blockStep = s.syncStep s.cfg.frameDeadlineMs (.frameFail .headerSyncFailed)) ∨
    (s.phase = .rSync ∧ s.blockStep = s.syncStep s.cfg.replyDeadlineMs (.cmd .timeout)) := by
  unfold State.blockStep
  split
  · rename_i h; exact .inl ⟨h, rfl⟩
  · rename_i h; exact .inr (.inl ⟨h, rfl⟩)
  · rename_i h; exact .inr (.inr ⟨h, rfl⟩)

/-- The step of a machine whose schedule names no turn is the block's. -/
theorem step_of_empty {s : State} (h : s.schedule = []) : step s = s.blockStep := by
  simp [step, h]

/-- The step of a machine whose schedule names a turn is that turn, with the turn taken off. -/
theorem step_of_cons {s : State} {t : Turn} {rest : List Turn} (h : s.schedule = t :: rest) :
    step s = { s with schedule := rest }.runTurn t := by
  simp [step, h]

end Sys2Proof.Machine
end

