-- ==== Sys2Proof/Laws/PerInstr.lean ====
section
/-! SUPPORT. The family FrameLength: every instruction's frame has the length its format fixes before its first byte is
examined (R50, R58). -/

namespace Sys2Proof.Laws

/-- The length of an instruction's frame, from the constant 9 or the table, "never computed from a variable within the frame
body" (R58). -/
def frameLengthOf (cfg : Cfg) : Instr → Nat
  | .meas _ _ _ _ => frameLen
  | .softReset => (cfg.row .softReset).commandLength
  | .hardReset => (cfg.row .hardReset).commandLength
  | .setFrameRate _ => (cfg.row .setFrameRate).commandLength
  | .setBaudRate _ => (cfg.row .setBaudRate).commandLength
  | .saveSettings => (cfg.row .saveSettings).commandLength
  | .softResetReply _ _ => (cfg.row .softReset).replyLength
  | .hardResetReply _ _ => (cfg.row .hardReset).replyLength
  | .setFrameRateReply _ _ => (cfg.row .setFrameRate).replyLength
  | .setBaudRateReply _ _ => (cfg.row .setBaudRate).replyLength
  | .saveSettingsReply _ _ => (cfg.row .saveSettings).replyLength

/-- The family's statement about one instruction. -/
def FrameLength.Statement (i : Instr) : Prop :=
  ∀ cfg : Cfg, cfg.wf = true → i.wellFormed cfg = true → (encode cfg i).length = frameLengthOf cfg i

/-- R30 for one row of a well-formed configuration. -/
theorem row_wf {cfg : Cfg} (h : cfg.wf = true) (c : CmdName) : (cfg.row c).wf cfg.failFlagOffset = true := by
  simp only [Cfg.wf, List.all_eq_true] at h
  exact h c (by cases c <;> decide)

/-- R30 for one row: its command length. -/
theorem commandLength_of_wf {cfg : Cfg} (h : cfg.wf = true) (c : CmdName) :
    (cfg.row c).commandLength = (cfg.row c).paramWidth + 4 := by
  have hrow := row_wf h c
  simp only [Descriptor.wf, Bool.and_eq_true, beq_iff_eq] at hrow
  omega

theorem length_command {cfg : Cfg} (h : cfg.wf = true) (c : CmdName) (p : Nat) :
    (encodeCommand cfg (cfg.row c) p).length = (cfg.row c).commandLength := by
  rw [length_encodeCommand, commandLength_of_wf h]

theorem length_reply {cfg : Cfg} {c : CmdName} {body : List Byte} (ck : Byte) (h : bodyFits cfg c body = true) :
    (replyBytes cfg body ck).length = (cfg.row c).replyLength := by
  rw [length_replyBytes]
  simpa [bodyFits] using h

theorem FrameLength.meas (dist strength temp : BitVec 16) (ck : Byte) :
    FrameLength.Statement (.meas dist strength temp ck) :=
  fun cfg _ _ => length_measBytes cfg dist strength temp ck

theorem FrameLength.softReset : FrameLength.Statement .softReset :=
  fun _ h _ => length_command h _ _

theorem FrameLength.hardReset : FrameLength.Statement .hardReset :=
  fun _ h _ => length_command h _ _

theorem FrameLength.setFrameRate (p : BitVec 16) : FrameLength.Statement (.setFrameRate p) :=
  fun _ h _ => length_command h _ _

theorem FrameLength.setBaudRate (p : BitVec 32) : FrameLength.Statement (.setBaudRate p) :=
  fun _ h _ => length_command h _ _

theorem FrameLength.saveSettings : FrameLength.Statement .saveSettings :=
  fun _ h _ => length_command h _ _

theorem FrameLength.softResetReply (body : List Byte) (ck : Byte) : FrameLength.Statement (.softResetReply body ck) :=
  fun _ _ hb => length_reply ck hb

theorem FrameLength.hardResetReply (body : List Byte) (ck : Byte) : FrameLength.Statement (.hardResetReply body ck) :=
  fun _ _ hb => length_reply ck hb

theorem FrameLength.setFrameRateReply (body : List Byte) (ck : Byte) :
    FrameLength.Statement (.setFrameRateReply body ck) :=
  fun _ _ hb => length_reply ck hb

theorem FrameLength.setBaudRateReply (body : List Byte) (ck : Byte) :
    FrameLength.Statement (.setBaudRateReply body ck) :=
  fun _ _ hb => length_reply ck hb

theorem FrameLength.saveSettingsReply (body : List Byte) (ck : Byte) :
    FrameLength.Statement (.saveSettingsReply body ck) :=
  fun _ _ hb => length_reply ck hb

end Sys2Proof.Laws
end

