-- ==== Sys2Proof/Laws/Step.lean ====
section
/-! SUPPORT. The inversion of a step: everything a block's turn, and a step of the machine, can do when it answers a next state. -/

namespace Sys2Proof.Machine

/-- How an attempt's micro-step can change a state that is not left as it is: the deadline (R64, R90), one byte taken without a
candidate (R66, R92), or one byte taken and the attempt ended by a candidate frame (R67) or reply (R93). -/
inductive BlockCase (s t : State) : Prop
  | stutter (h : t = s)
  | expired (hp : s.phase ≠ .idle) (o : Out) (ho : o = .frameFail .headerSyncFailed ∨ o = .cmd .timeout) (h : t = s.finish o)
  | byte (hp : s.phase ≠ .idle) (b : Byte) (q : List Byte) (hq : s.rxq = b :: q) (h : t = s.tookByte b q)
  | frame (hp : s.phase = .fSync) (b : Byte) (q : List Byte) (hq : s.rxq = b :: q) (f : List Byte)
      (h : t = (s.tookByte b q).finish (frameOutcome s.cfg f))
  | reply (hp : s.phase = .rSync) (b : Byte) (q : List Byte) (hq : s.rxq = b :: q) (r : CmdResult)
      (h : t = (s.tookByte b q).finish (.cmd r))

theorem State.syncStep_inv {s t : State} {deadlineMs : Nat} {o : Out}
    (ho : o = .frameFail .headerSyncFailed ∨ o = .cmd .timeout) (hp : s.phase ≠ .idle)
    (h : s.syncStep deadlineMs o = .next t) : BlockCase s t := by
  rcases State.syncStep_cases deadlineMs o s with ⟨-, e⟩ | ⟨-, -, e⟩ | ⟨b, q, -, hq, e⟩
  · rw [e] at h
    cases h
    exact .expired hp o ho rfl
  · rw [e] at h
    cases h
    exact .stutter rfl
  · rw [e] at h
    change (s.tookByte b q).testWindow = .next t at h
    rcases State.testWindow_cases (s.tookByte b q) with e | ⟨i, -, -, -, e⟩
    · rw [e] at h
      cases h
      exact .byte hp b q hq rfl
    · rw [e] at h
      cases h
      rcases State.receive_cases (encode (s.tookByte b q).cfg i) (s.tookByte b q) with e | ⟨hf, -, e⟩ | ⟨hr, -, e⟩
      · exact .byte hp b q hq e
      · exact .frame hf b q hq _ e
      · exact .reply hr b q hq _ e

/-- Everything a block's turn can do (R20, R63, R89). -/
theorem State.blockStep_inv {s t : State} (h : s.blockStep = .next t) : BlockCase s t := by
  rcases s.blockStep_cases with ⟨-, e⟩ | ⟨hp, e⟩ | ⟨hp, e⟩
  · rw [e] at h
    cases h
    exact .stutter rfl
  · rw [e] at h
    exact State.syncStep_inv (.inl rfl) (by simp [hp]) h
  · rw [e] at h
    exact State.syncStep_inv (.inr rfl) (by simp [hp]) h

theorem State.syncStep_total (deadlineMs : Nat) (o : Out) (s : State) : ∃ t, s.syncStep deadlineMs o = .next t := by
  rcases State.syncStep_cases deadlineMs o s with ⟨-, e⟩ | ⟨-, -, e⟩ | ⟨b, q, -, -, e⟩
  · exact ⟨_, e⟩
  · exact ⟨_, e⟩
  · rcases State.testWindow_cases ({ s with rxq := q }.shift b) with e' | ⟨i, -, -, -, e'⟩
    · exact ⟨_, e.trans e'⟩
    · exact ⟨_, e.trans e'⟩

/-- What a command that answers a next state did: its row's SEND, from IDLE, under a well-formed table (R77). -/
theorem exec_command_next {c : Command} {s t : State} (h : exec c.instr s = .next t) :
    s.phase = .idle ∧ s.cfg.wf = true ∧
      ∃ p, encode s.cfg c.instr = encodeCommand s.cfg (s.cfg.row c.name) p ∧ t = s.sendStep c.name p := by
  obtain ⟨p, e, he⟩ := exec_command c s
  rw [e, State.send] at h
  obtain ⟨hp, hw, rfl⟩ := State.start_next h
  exact ⟨hp, hw, p, he, rfl⟩

/-- SEND reads nothing of the block's surroundings (R102). -/
theorem State.sendStep_withSurroundings (s : State) (d : Driver) (x : List Turn) (k : Nat) (c : CmdName) (p : Nat) :
    (s.withSurroundings d x k).sendStep c p = (s.sendStep c p).withSurroundings d x k := by
  rcases State.sendStep_cases c p s with ⟨h, e⟩ | ⟨h, e⟩ <;>
    rcases State.sendStep_cases c p (s.withSurroundings d x k) with ⟨h', e'⟩ | ⟨h', e'⟩ <;>
    first
      | (rw [e, e']; rfl)
      | exact absurd h h'
      | exact absurd h' h

/-- What a step can do to the block, whatever it does to the host's software, the schedule and the counter of free values. -/
inductive StepCase (s t : State) : Prop
  /-- the block's turn, with the turn taken off the schedule -/
  | block (s0 : State) (h0 : s0 = { s with schedule := s0.schedule }) (h : s0.blockStep = .next t)
  /-- the host acts without starting an operation -/
  | surroundings (h : t.sameBlock s)
  /-- Line-in -/
  | line (q : List Byte) (h : t.sameBlock { s with rxq := q })
  /-- Clock -/
  | clock (ms : Nat) (h : t.sameBlock (s.clock ms))
  /-- DECODE -/
  | decode (hp : s.phase = .idle) (hw : s.cfg.wf = true) (h : t.sameBlock (s.beginAttempt .fSync 9))
  /-- SEND -/
  | send (hp : s.phase = .idle) (hw : s.cfg.wf = true) (c : Command) (p : Nat)
      (he : encode s.cfg c.instr = encodeCommand s.cfg (s.cfg.row c.name) p) (h : t.sameBlock (s.sendStep c.name p))
  /-- the reset input -/
  | reset (s0 : State) (h0 : s0 = { s with schedule := s0.schedule }) (h : t = s0.resetInput)

theorem StepCase.of_command {s t : State} {d : Driver} {x : List Turn} {k : Nat} {c : Command}
    (h : exec c.instr (s.withSurroundings d x k) = .next t) : StepCase s t := by
  obtain ⟨hp, hw, p, he, rfl⟩ := exec_command_next h
  refine .send hp hw c p he ?_
  rw [State.sendStep_withSurroundings]
  rfl

theorem StepCase.of_decode {s t : State} {d : Driver} {x : List Turn} {k : Nat}
    (h : (s.withSurroundings d x k).decodeStart = .next t) : StepCase s t := by
  obtain ⟨hp, hw, rfl⟩ := State.start_next h
  exact .decode hp hw rfl

theorem State.serialised_next {k : State → Answer} {s t : State} (h : s.serialised k = .next t) :
    s.hostFree = true ∧ k s = .next t := by
  unfold State.serialised at h
  split at h
  · rename_i hf
    exact ⟨hf, h⟩
  · cases h

/-- Everything the host's turn can do to the block (R102, R103). -/
theorem StepCase.of_host {s t : State} {r : Request} {x : List Turn}
    (h : (s.withSurroundings s.driver x s.free).hostStep r = .next t) : StepCase s t := by
  cases r with
  | decode => exact .of_decode (State.serialised_next h).2
  | send c => exact .of_command (State.serialised_next h).2
  | tick =>
    have h := (State.serialised_next h).2
    simp only [State.tick] at h
    split at h
    · exact .of_decode (d := _) (x := x) (k := s.free) h
    · split at h <;> cases h <;> exact .surroundings rfl
  | sleep =>
    have h := (State.serialised_next (show State.serialised State.sleepRequest _ = .next t from h)).2
    exact .of_command (c := .setFrameRate 0) (d := _) (x := x) (k := s.free) h
  | wake rate =>
    have h := (State.serialised_next (show State.serialised (State.wakeRequest rate) _ = .next t from h)).2
    exact .of_command (c := .setFrameRate rate) (d := _) (x := x) (k := s.free) h
  | setup soft rate persist =>
    have h := (State.serialised_next h).2
    simp only [State.setupRequest] at h
    split at h
    · cases h
      exact .surroundings rfl
    · exact .of_command (d := _) (x := x) (k := s.free) h
  | collect =>
    simp only [State.hostStep, State.collect] at h
    split at h
    · cases h
      exact .surroundings rfl
    · split at h
      · cases h
        exact .surroundings rfl
      · cases h
        unfold State.collectRead
        split <;> exact .surroundings rfl
      · cases h
        unfold State.collectSleep
        dsimp only
        split <;> exact .surroundings rfl
      · cases h
        unfold State.collectWake
        dsimp only
        split <;> exact .surroundings rfl
      · unfold State.collectSetup at h
        split at h
        · cases h
          exact .surroundings rfl
        · exact .of_command (d := _) (x := x) (k := s.free) h

/-- Everything a step can do (R14, R15). -/
theorem step_inv {s t : State} (h : step s = .next t) : StepCase s t := by
  cases hs : s.schedule with
  | nil =>
    rw [step_of_empty hs] at h
    exact .block s rfl h
  | cons u rest =>
    rw [step_of_cons hs] at h
    cases u with
    | block => exact .block { s with schedule := rest } rfl h
    | lineIn b =>
      cases h
      obtain ⟨q, k, e⟩ := State.lineIn_cases b { s with schedule := rest }
      rw [e]
      exact .line q rfl
    | clock ms =>
      cases h
      exact .clock ms rfl
    | host r => exact .of_host (x := rest) h
    | reset =>
      cases h
      exact .reset { s with schedule := rest } rfl rfl

/-! Lists of turns in which the host waits. -/

theorem deliveredBytes_append (a b : List Turn) : deliveredBytes (a ++ b) = deliveredBytes a ++ deliveredBytes b := by
  induction a with
  | nil => simp [deliveredBytes]
  | cons u a ih => cases u <;> simp [deliveredBytes, ih]

theorem elapsedOver_append (a b : List Turn) : elapsedOver (a ++ b) = elapsedOver a + elapsedOver b := by
  induction a with
  | nil => simp [elapsedOver]
  | cons u a ih => cases u <;> simp [elapsedOver, ih]; omega

@[simp] theorem deliveredBytes_blocks (n : Nat) : deliveredBytes (List.replicate n .block) = [] := by
  induction n <;> simp_all [List.replicate_succ, deliveredBytes]

@[simp] theorem elapsedOver_blocks (n : Nat) : elapsedOver (List.replicate n .block) = 0 := by
  induction n <;> simp_all [List.replicate_succ, elapsedOver]

/-- A Clock turn moves an attempt's elapsed time by no more than its own milliseconds (R130). -/
theorem State.elapsed_clock_le (s : State) (ms : Nat) : (s.clock ms).elapsed ≤ s.elapsed + ms := by
  simp only [State.elapsed, State.clock, timeSince]
  rw [Nat.mod_add_mod, Nat.add_right_comm, ← Nat.mod_add_mod]
  exact Nat.mod_le _ _

/-- One more step of a run that has not stopped. -/
theorem run_succ {n : Nat} {s t : State} (h : step s = .next t) :
    Host.Core.run Sys2Proof.core (n + 1) s = Host.Core.run Sys2Proof.core n t := by
  simp only [Host.Core.run, show Sys2Proof.core.step s = .next t from h]

end Sys2Proof.Machine
end

