-- ==== Sys2Proof/Tests/Slice0.lean ====
section
/-! SUPPORT. Tests: words written out from the spec's encodings, one check per well-formedness test, single steps, and a
witness for the hypotheses of every statement. Expected results are the spec's vectors (95_test_vectors.md) or hand
calculation from the rule named. -/

namespace Sys2Proof.Tests
open Sys2Proof.Machine

/-! Decoding, bytes written out from formats M9, C4, C6, C8, A5, E6, E8 (R51, R54, R55) and the vectors of 95. -/

/-- Vectors E1 to E3: C4 is lead, 4, opcode, checksum. -/
theorem test_decode_c4 :
    decode Cfg.standard .outbound [0x5A, 0x04, 0x02, 0x60] = .ok .softReset ∧
    decode Cfg.standard .outbound [0x5A, 0x04, 0x10, 0x6E] = .ok .hardReset ∧
    decode Cfg.standard .outbound [0x5A, 0x04, 0x11, 0x6F] = .ok .saveSettings := by decide

/-- C6 and C8: the parameter's low byte first (R56). -/
theorem test_decode_c6_c8 :
    decode Cfg.standard .outbound [0x5A, 0x06, 0x03, 0x34, 0x12, 0xA9] = .ok (.setFrameRate 0x1234) ∧
    decode Cfg.standard .outbound [0x5A, 0x08, 0x06, 0x78, 0x56, 0x34, 0x12, 0x7C] = .ok (.setBaudRate 0x12345678) := by
  decide

/-- M9, vector F2: distance FF FF, strength 32 00, temperature code C8 08. -/
theorem test_decode_m9 :
    decode Cfg.standard .measurement [0x59, 0x59, 0xFF, 0xFF, 0x32, 0x00, 0xC8, 0x08, 0xB2]
      = .ok (.meas 0xFFFF 0x0032 0x08C8 0xB2) := by decide

/-- A5: the replies of G8, told apart by the context and not by their bytes (R59). -/
theorem test_decode_a5 :
    decode Cfg.standard (.reply .softReset) [0x5A, 0x05, 0x02, 0x01, 0x62] = .ok (.softResetReply [0x02, 0x01] 0x62) ∧
    decode Cfg.standard (.reply .hardReset) [0x5A, 0x05, 0x10, 0x00, 0x6F] = .ok (.hardResetReply [0x10, 0x00] 0x6F) ∧
    decode Cfg.standard (.reply .saveSettings) [0x5A, 0x05, 0x11, 0x00, 0x70] = .ok (.saveSettingsReply [0x11, 0x00] 0x70) ∧
    decode Cfg.standard (.reply .hardReset) [0x5A, 0x05, 0x11, 0x00, 0x70] = .ok (.hardResetReply [0x11, 0x00] 0x70) := by
  decide

/-- E6 and E8: the echo of the command frame (R55). -/
theorem test_decode_e6_e8 :
    decode Cfg.standard (.reply .setFrameRate) [0x5A, 0x06, 0x03, 0x0A, 0x00, 0x6D]
      = .ok (.setFrameRateReply [0x03, 0x0A, 0x00] 0x6D) ∧
    decode Cfg.standard (.reply .setBaudRate) [0x5A, 0x08, 0x06, 0x00, 0xC2, 0x01, 0x00, 0x2B]
      = .ok (.setBaudRateReply [0x06, 0x00, 0xC2, 0x01, 0x00] 0x2B) := by decide

/-- R57's illegal patterns are rejected by name. -/
theorem test_decode_rejects :
    decode Cfg.standard .outbound [0x5A, 0x04, 0x02] = .error .wrongLength ∧
    decode Cfg.standard .outbound [0x5B, 0x04, 0x02, 0x61] = .error .wrongLead ∧
    decode Cfg.standard .outbound [0x5A, 0x05, 0x02, 0x61] = .error .wrongLengthByte ∧
    decode Cfg.standard .outbound [0x5A, 0x05, 0x02, 0x00, 0x61] = .error .wrongLength ∧
    decode Cfg.standard .outbound [0x5A, 0x04, 0x7F, 0xDD] = .error .unknownOpcode ∧
    decode Cfg.standard .outbound [0x5A, 0x04, 0x02, 0x61] = .error .wrongChecksum ∧
    decode Cfg.standard .measurement [0x59, 0x00, 0x64, 0x00, 0xE8, 0x03, 0x00, 0x08, 0x09] = .error .wrongHeader ∧
    decode Cfg.standard .measurement [0x59, 0x59, 0x64, 0x00, 0xE8, 0x03, 0x00, 0x08] = .error .wrongLength ∧
    decode Cfg.standard (.reply .softReset) [0x59, 0x05, 0x02, 0x00, 0x60] = .error .wrongLead ∧
    decode Cfg.standard (.reply .softReset) [0x5A, 0x06, 0x02, 0x00, 0x62] = .error .wrongLengthByte ∧
    decode Cfg.standard (.reply .softReset) [0x5A, 0x06, 0x03, 0x64, 0x00, 0xC7] = .error .wrongLength := by decide

/-- The encoder on the same words: vectors E9 (p = 0x1234) and E14 (p = 0x12345678), and F1. -/
theorem test_encode :
    encode Cfg.standard (.setFrameRate 0x1234) = [0x5A, 0x06, 0x03, 0x34, 0x12, 0xA9] ∧
    encode Cfg.standard (.setBaudRate 0x12345678) = [0x5A, 0x08, 0x06, 0x78, 0x56, 0x34, 0x12, 0x7C] ∧
    encode Cfg.standard (.meas 100 1000 0x0800 0x09) = [0x59, 0x59, 0x64, 0x00, 0xE8, 0x03, 0x00, 0x08, 0x09] := by decide

/-- The table interface: the `fixed` members of spec/opcode_table.json with every free bit 0, byte 0 most significant. -/
theorem test_table_words :
    decodeTableWord 72 0x595900000000000000 = some (.meas 0 0 0 0) ∧
    decodeTableWord 32 0x5A040260 = some .softReset ∧
    decodeTableWord 32 0x5A04106E = some .hardReset ∧
    decodeTableWord 32 0x5A04116F = some .saveSettings ∧
    decodeTableWord 48 0x5A0603000000 = some (.setFrameRate 0) ∧
    decodeTableWord 64 0x5A08060000000000 = some (.setBaudRate 0) ∧
    decodeTableWord 40 0x5A05000000 = some (.softResetReply [0, 0] 0) ∧
    decodeTableWord 40 0x5A05100070 = some (.hardResetReply [0x10, 0] 0x70) ∧
    decodeTableWord 40 0x5A05110171 = some (.saveSettingsReply [0x11, 1] 0x71) ∧
    decodeTableWord 48 0x5A0600000000 = some (.setFrameRateReply [0, 0, 0] 0) ∧
    decodeTableWord 64 0x5A08000000000000 = some (.setBaudRateReply [0, 0, 0, 0, 0] 0) := by decide

/-! Well-formedness: an ill-formed term for each check. -/

/-- A table that breaks R30: SOFT_RESET one byte too long. -/
def brokenTable : Cfg :=
  { Cfg.standard with table := { CmdTable.standard with softReset := ⟨0x02, 5, 5, 3, true⟩ } }

/-- R55: a reply body that is no `f[2..L-2]` of its row's length. -/
theorem test_ill_formed_instructions :
    (Instr.softResetReply [0x02] 0).wellFormed Cfg.standard = false ∧
    (Instr.setBaudRateReply [0x06, 0, 0, 0, 0, 0] 0).wellFormed Cfg.standard = false ∧
    (Instr.setBaudRateReply [0x06, 0, 0, 0, 0] 0).wellFormed Cfg.standard = true := by decide

/-- R30, one broken row for each check, and the two boundaries that meet it. -/
theorem test_ill_formed_rows :
    (Descriptor.wf ⟨⟨0x02, 5, 5, 3, true⟩, 0⟩ 3) = false ∧
    (Descriptor.wf ⟨⟨0x03, 6, 6, 2, false⟩, 2⟩ 3) = false ∧
    (Descriptor.wf ⟨⟨0x03, 6, 2, 3, false⟩, 2⟩ 3) = false ∧
    (Descriptor.wf ⟨⟨0x03, 6, 10, 3, false⟩, 2⟩ 3) = false ∧
    (Descriptor.wf ⟨⟨0x02, 4, 4, 3, true⟩, 0⟩ 3) = false ∧
    (Descriptor.wf ⟨⟨0x02, 4, 5, 3, true⟩, 0⟩ 3) = true ∧
    (Descriptor.wf ⟨⟨0x03, 6, 3, 3, false⟩, 2⟩ 3) = true := by decide

/-- A table that R30 admits and R10 makes a parameter: reset rows with one opcode byte and no flag, a set-rate row with one. -/
def unusualTable : Cfg :=
  { Cfg.standard with table :=
    { CmdTable.standard with
      softReset := ⟨0x10, 4, 5, 3, false⟩, hardReset := ⟨0x10, 4, 3, 3, false⟩, setFrameRate := ⟨0x03, 6, 6, 3, true⟩ } }

theorem test_tables : brokenTable.wf = false ∧ unusualTable.wf = true ∧ unusualTable.opcodesDistinct = false ∧
    Cfg.standard.wf = true ∧ Cfg.standard.opcodesDistinct = true := by decide

/-! Single steps. -/

/-- The next state of an answer, if it is one. -/
def nextOf : Answer → Option State
  | .next s => some s
  | _ => none

/-- In IDLE. -/
def idle : State := State.reset

/-- A frame attempt just started, `q` waiting (R62). -/
def framing (q : List Byte) : State := { State.reset with phase := .fSync, rxq := q }

/-- The reply to row `c` awaited, `q` waiting (R77). -/
def awaiting (c : CmdName) (q : List Byte) : State :=
  { State.reset with phase := .rSync, cur := c, len := (Cfg.standard.row c).replyLength, rxq := q }

/-- OUT after an instruction. -/
def outOf (i : Instr) (s : State) : Option Out := (nextOf (exec i s)).map State.out

/-- Vectors F5 (D7's order) and F3. -/
theorem test_meas_classes :
    outOf (.meas 0xFFFF 0xFFFF 0x0800 0xB6) (framing []) = some (.reading (-1) (-1) 0 .weakSignal) ∧
    outOf (.meas 300 0xFFFF 0x08C8 0xAD) (framing []) = some (.reading 300 (-1) 25 .strongSignal) := by decide

/-- Vector F9, under both settings of TEMP_SHIFT_ARITH. -/
theorem test_meas_temperature :
    outOf (.meas 0x8000 0 0x8000 0xB2) (framing []) = some (.reading (-32768) 0 3840 .ok) ∧
    outOf (.meas 0x8000 0 0x8000 0xB2) { framing [] with cfg := { Cfg.standard with tempShiftArith := true } }
      = some (.reading (-32768) 0 (-4352) .ok) := by decide

/-- Vectors E1, E2: four bytes out, the input drained, the reply awaited (program P2: drain first). -/
theorem test_resets_transmit :
    ((nextOf (exec .softReset { idle with rxq := [0x59, 0x59] })).map fun t => (t.txq, t.rxq, t.phase, t.len))
      = some ([0x5A, 0x04, 0x02, 0x60], [], .rSync, 5) ∧
    ((nextOf (exec .hardReset idle)).map fun t => (t.txq, t.cur)) = some ([0x5A, 0x04, 0x10, 0x6E], .hardReset) := by
  decide

/-- R80's parameter 100 (vector K-h), the largest parameter of R81 (vector K-i), and vector E3. -/
theorem test_parameters_transmit :
    ((nextOf (exec (.setFrameRate 100) idle)).map State.txq) = some [0x5A, 0x06, 0x03, 0x64, 0x00, 0xC7] ∧
    ((nextOf (exec (.setBaudRate 0xFFFFFFFF) idle)).map State.txq)
      = some [0x5A, 0x08, 0x06, 0xFF, 0xFF, 0xFF, 0xFF, 0x64] ∧
    ((nextOf (exec .saveSettings idle)).map State.txq) = some [0x5A, 0x04, 0x11, 0x6F] := by decide

/-- Vectors Q2, Q8, Q3 and Q4: flag 1 fails, flags 0, 2 and 0xFF pass (R94). -/
theorem test_ack_flag :
    outOf (.softResetReply [0x02, 0x01] 0x62) (awaiting .softReset []) = some (.cmd .fail) ∧
    outOf (.hardResetReply [0x10, 0x00] 0x6F) (awaiting .hardReset []) = some (.cmd .pass) ∧
    outOf (.saveSettingsReply [0x11, 0x02] 0x72) (awaiting .saveSettings []) = some (.cmd .pass) ∧
    outOf (.saveSettingsReply [0x11, 0xFF] 0x6F) (awaiting .saveSettings []) = some (.cmd .pass) := by decide

/-- Vector Q6: the checksum is tested before the flag is read (R93). Vector Q5: the reply's own opcode byte is not checked. -/
theorem test_reply_checks :
    outOf (.saveSettingsReply [0x11, 0x01] 0x70) (awaiting .saveSettings []) = some (.cmd .checksumFailed) ∧
    outOf (.saveSettingsReply [0x02, 0x00] 0x61) (awaiting .saveSettings []) = some (.cmd .pass) := by decide

/-- Vectors Q12 and Q13: an echo is never read, not even where a flag would stand (R95). -/
theorem test_echo_passes :
    outOf (.setFrameRateReply [0x03, 0x01, 0x00] 0x64) (awaiting .setFrameRate []) = some (.cmd .pass) ∧
    outOf (.setBaudRateReply [0x06, 0x00, 0xC2, 0x01, 0x00] 0x2B) (awaiting .setBaudRate []) = some (.cmd .pass) := by
  decide

/-- S9: a whole frame waits, the deadline has passed: nothing is popped; at 149 ms the first byte is. -/
theorem test_deadline_first :
    ((nextOf (step { framing [0x59, 0x59] with now := 150 })).map fun t => (t.out, t.phase, t.rxq))
      = some (.frameFail .headerSyncFailed, .idle, [0x59, 0x59]) ∧
    ((nextOf (step { framing [0x59, 0x59] with now := 149 })).map fun t => (t.out, t.phase, t.rxq, t.n))
      = some (.none, .fSync, [0x59], 1) := by decide

/-- The host's probe: the very next step after reset runs the instruction that was placed. -/
theorem test_placed :
    ((nextOf (step (State.reset.withFetchWord 72 0x59596400E803000809))).map State.out)
      = some (.reading 100 1000 0 .ok) ∧
    ((nextOf (step (State.reset.withFetchWord 40 0x5A05020162))).map State.out) = some (.cmd .fail) ∧
    ((nextOf (step (State.reset.withFetchWord 48 0x5A0603000063))).map State.txq)
      = some [0x5A, 0x06, 0x03, 0x00, 0x00, 0x63] := by decide

/-! Witnesses: for every statement with hypotheses, a concrete state and operands that meet them all, clause by clause. -/

/-- One instruction per constructor. -/
def oneOfEach : List Instr :=
  [.meas 0xFFFF 0x0032 0x08C8 0xB2, .softReset, .hardReset, .setFrameRate 0xFFFF, .setBaudRate 0xFFFFFFFF, .saveSettings,
   .softResetReply [0x02, 0x01] 0x62, .hardResetReply [0x10, 0x00] 0x6F, .setFrameRateReply [0x03, 0x0A, 0x00] 0x6D,
   .setBaudRateReply [0x06, 0x00, 0xC2, 0x01, 0x00] 0x2B, .saveSettingsReply [0x11, 0x00] 0x70]

/-- Every constructor, under the standard table, and commands under one whose opcode bytes do not differ. -/
theorem witness_DecodeOfEncode :
    Cfg.standard.wf = true ∧ oneOfEach.all (·.wellFormed Cfg.standard) = true ∧ Cfg.standard.opcodesDistinct = true ∧
    Instr.context (.meas 0 0 0 0) ≠ .outbound ∧ unusualTable.wf = true ∧ Instr.wellFormed unusualTable .hardReset = true := by
  decide

theorem witness_EncodeOfDecode :
    Cfg.standard.wf = true ∧
    decode Cfg.standard .outbound [0x5A, 0x04, 0x02, 0x60] = .ok .softReset ∧
    decode Cfg.standard .measurement [0x59, 0x59, 0, 0, 0, 0, 0, 0, 0] = .ok (.meas 0 0 0 0) ∧
    decode Cfg.standard (.reply .hardReset) [0x5A, 0x05, 0x10, 0x00, 0x6F] = .ok (.hardResetReply [0x10, 0x00] 0x6F) := by
  decide

/-- Frame F1. -/
def frameF1 : List Byte := [0x59, 0x59, 0x64, 0x00, 0xE8, 0x03, 0x00, 0x08, 0x09]

/-- Vectors K8, K9, K1 and K7: the indices 0, 1, 2 and 8. -/
theorem witness_SingleByteCorruptionDetected :
    (framing []).phase = .fSync ∧ isFrameCandidate (framing []).cfg frameF1 = true ∧ cksumValid frameF1 = true ∧
    (0x58 : Byte) ≠ byteAt frameF1 0 ∧ (0x00 : Byte) ≠ byteAt frameF1 1 ∧ (0x65 : Byte) ≠ byteAt frameF1 2 ∧
    (0x0A : Byte) ≠ byteAt frameF1 8 := by decide

theorem witness_CommandFramesWellFramed : Cfg.standard.wf = true := by decide

theorem witness_PlainCommandsSend :
    idle.phase = .idle ∧ idle.cfg.wf = true ∧ (idle.cfg.row .softReset).replyLength ≠ 0 ∧
    (idle.cfg.row .hardReset).replyLength ≠ 0 ∧ (idle.cfg.row .saveSettings).replyLength ≠ 0 := by decide

theorem witness_SetFrameRateSends :
    idle.phase = .idle ∧ idle.cfg.wf = true ∧ (idle.cfg.row .setFrameRate).replyLength ≠ 0 := by decide

theorem witness_SetBaudRateSends :
    idle.phase = .idle ∧ idle.cfg.wf = true ∧ (idle.cfg.row .setBaudRate).replyLength ≠ 0 := by decide

/-- A table whose five rows are all fire-and-forget (R83). -/
def silentTable : CmdTable where
  softReset := ⟨0x02, 4, 0, 3, false⟩
  hardReset := ⟨0x10, 4, 0, 3, false⟩
  setFrameRate := ⟨0x03, 6, 0, 3, false⟩
  setBaudRate := ⟨0x06, 8, 0, 3, false⟩
  saveSettings := ⟨0x11, 4, 0, 3, false⟩

/-- In IDLE under that table. -/
def silentIdle : State := { idle with cfg := { Cfg.standard with table := silentTable } }

theorem witness_FireAndForgetPasses :
    silentIdle.phase = .idle ∧ silentIdle.cfg.wf = true ∧
    (cmdNames.all fun c => (silentIdle.cfg.row c).replyLength == 0) = true := by decide

theorem witness_CommandsFrame :
    (nextOf (exec (Command.setFrameRate 100).instr idle)).isSome = true ∧
    (nextOf (exec (Command.setFrameRate 100).instr silentIdle)).isSome = true ∧
    (silentIdle.cfg.row (Command.setFrameRate 100).name).replyLength = 0 := by decide

theorem witness_StartOnlyFromIdle :
    (framing []).phase ≠ .idle ∧ (awaiting .softReset []).phase ≠ .idle ∧
    { idle with cfg := brokenTable }.phase = .idle ∧ { idle with cfg := brokenTable }.cfg.wf = false ∧
    { idle with cfg := unusualTable }.phase = .idle ∧ { idle with cfg := unusualTable }.cfg.wf = true := by decide

/-- The checksum hypothesis holds of frame F1, under both settings of TEMP_SHIFT_ARITH. -/
theorem witness_MeasGivesReading :
    (framing []).phase = .fSync ∧
    (0x09 : Byte) = (framing []).cfg.hdr0 + (framing []).cfg.hdr1 + (100 : BitVec 16).setWidth 8 +
      ((100 : BitVec 16) >>> 8).setWidth 8 + (1000 : BitVec 16).setWidth 8 + ((1000 : BitVec 16) >>> 8).setWidth 8 +
      (0x0800 : BitVec 16).setWidth 8 + ((0x0800 : BitVec 16) >>> 8).setWidth 8 := by decide

theorem witness_MeasWrongChecksumRejected :
    (framing []).phase = .fSync ∧
    (0x0A : Byte) ≠ cksum (measBytes (framing []).cfg 100 1000 0x0800 0x0A).dropLast := by decide

/-- Vector F7. -/
theorem witness_DistanceField :
    let f : List Byte := [0x59, 0x59, 0xFE, 0xFF, 0x07, 0x00, 0x00, 0x00, 0xB6]
    cksumValid f = true ∧ distOf f < 0 ∧ distOf f ≠ -1 ∧ distOf f ≠ -4 ∧ strengthOf f ≠ -1 := by decide

/-- Both ends of the raw code's range, and the last code on which the two settings must agree. -/
theorem witness_TemperatureDecode : 0 < 65536 ∧ 0xFFFF < 65536 ∧ (0x7FFF < 65536 ∧ 0x7FFF < 0x8000) := by decide

/-- Vector Q2, and with CUR another row of the same length. -/
theorem witness_AckRepliesInterpretFlag :
    let s := awaiting .softReset []
    s.phase = .rSync ∧ (s.cfg.row s.cur).ack = true ∧ ([0x02, 0x01] : List Byte).length + 3 = s.len ∧ s.len ≤ 9 ∧
    (0x62 : Byte) = cksum (s.cfg.cmdLead :: BitVec.ofNat 8 s.len :: [0x02, 0x01]) ∧
    ((awaiting .saveSettings []).cfg.row (awaiting .saveSettings []).cur).ack = true := by decide

/-- The extremes of a reply's length (R30): 3 for SET_FRAME_RATE, 9 for SET_BAUD_RATE and SOFT_RESET. -/
def edgeTable : CmdTable :=
  { CmdTable.standard with
    softReset := ⟨0x02, 4, 9, 3, true⟩, setFrameRate := ⟨0x03, 6, 3, 3, false⟩,
    setBaudRate := ⟨0x06, 8, 9, 3, false⟩ }

/-- The reply to row `c` awaited under that table. -/
def awaitingEdge (c : CmdName) (q : List Byte) : State :=
  { State.reset with
    cfg := { Cfg.standard with table := edgeTable }, phase := .rSync, cur := c, len := (edgeTable.row c).replyLength, rxq := q }

/-- The classes the other way round: SET_FRAME_RATE acknowledging, SOFT_RESET not (R10). -/
theorem witness_replies_other_class :
    let s := { awaiting .setFrameRate [] with cfg := unusualTable }
    let t := { awaiting .softReset [] with cfg := unusualTable }
    s.phase = .rSync ∧ (s.cfg.row s.cur).ack = true ∧ ([0x03, 0x01, 0x00] : List Byte).length + 3 = s.len ∧ s.len ≤ 9 ∧
    (0x64 : Byte) = cksum (s.cfg.cmdLead :: BitVec.ofNat 8 s.len :: [0x03, 0x01, 0x00]) ∧
    t.phase = .rSync ∧ (t.cfg.row t.cur).ack = false ∧ ([0x02, 0x01] : List Byte).length + 3 = t.len ∧ t.len ≤ 9 ∧
    (0x62 : Byte) = cksum (t.cfg.cmdLead :: BitVec.ofNat 8 t.len :: [0x02, 0x01]) := by decide

/-- The longest reply, of 9 bytes. -/
theorem witness_AckRepliesInterpretFlag_edge :
    let s := awaitingEdge .softReset []
    s.cfg.wf = true ∧ s.phase = .rSync ∧ (s.cfg.row s.cur).ack = true ∧ ([0, 0, 0, 0, 0, 0] : List Byte).length + 3 = s.len ∧
    s.len ≤ 9 ∧ (0x63 : Byte) = cksum (s.cfg.cmdLead :: BitVec.ofNat 8 s.len :: [0, 0, 0, 0, 0, 0]) := by decide

theorem witness_EchoRepliesPass :
    let s := awaiting .setFrameRate []
    s.phase = .rSync ∧ (s.cfg.row s.cur).ack = false ∧ ([0x03, 0x0A, 0x00] : List Byte).length + 3 = s.len ∧ s.len ≤ 9 ∧
    (0x6D : Byte) = cksum (s.cfg.cmdLead :: BitVec.ofNat 8 s.len :: [0x03, 0x0A, 0x00]) := by decide

/-- The shortest reply, of 3 bytes, and the longest, of 9. -/
theorem witness_EchoRepliesPass_edges :
    let s := awaitingEdge .setFrameRate []
    let t := awaitingEdge .setBaudRate []
    s.cfg.wf = true ∧ s.phase = .rSync ∧ (s.cfg.row s.cur).ack = false ∧ ([] : List Byte).length + 3 = s.len ∧ s.len ≤ 9 ∧
    (0x5D : Byte) = cksum (s.cfg.cmdLead :: BitVec.ofNat 8 s.len :: []) ∧
    t.phase = .rSync ∧ (t.cfg.row t.cur).ack = false ∧ ([0, 0, 0, 0, 0, 0] : List Byte).length + 3 = t.len ∧ t.len ≤ 9 ∧
    (0x63 : Byte) = cksum (t.cfg.cmdLead :: BitVec.ofNat 8 t.len :: [0, 0, 0, 0, 0, 0]) := by decide

/-- Vector Q6. -/
theorem witness_RepliesWrongChecksumRejected :
    let s := awaiting .saveSettings []
    s.phase = .rSync ∧ ([0x11, 0x01] : List Byte).length + 3 = s.len ∧ s.len ≤ 9 ∧
    (0x70 : Byte) ≠ cksum (s.cfg.cmdLead :: BitVec.ofNat 8 s.len :: [0x11, 0x01]) := by decide

theorem witness_UnrecognisedFramesIgnored :
    isInbound (.meas 0 0 0 0) ∧ isInbound (.softResetReply [0x02, 0x00] 0x61) ∧ idle.phase = .idle ∧
    (awaiting .softReset []).phase = .rSync ∧
    (encode (awaiting .softReset []).cfg (.meas 0 0 0 0)).length ≠ (awaiting .softReset []).len ∧
    (framing []).phase = .fSync ∧ (encode (framing []).cfg (.softResetReply [0x02, 0x00] 0x61)).length ≠ 9 := by decide

theorem witness_InboundFrame :
    isInbound (.meas 0 0 0 0) ∧ (nextOf (exec (.meas 0 0 0 0) (framing []))).isSome = true := by decide

/-- The active lengths 3, 9 and, below what a reply may have, 1. -/
theorem witness_ShiftOperation :
    (1 ≤ (framing []).len ∧ (framing []).len ≤ 9 ∧ 7 + 1 < (framing []).len ∧ (framing []).len ≤ 9) ∧
    (1 ≤ (awaitingEdge .setFrameRate []).len ∧ 0 + 1 < (awaitingEdge .setFrameRate []).len ∧
      (awaitingEdge .setFrameRate []).len ≤ 8) ∧
    (1 ≤ { idle with len := 1 }.len ∧ { idle with len := 1 }.len ≤ 8) := by decide

theorem witness_DecodeStarts :
    let s := { idle with schedule := [.host .decode, .block] }
    s.schedule = .host .decode :: [.block] ∧ s.phase = .idle ∧ s.driver.pending = .none ∧ s.cfg.wf = true := by decide

theorem witness_StepRunsRequestedCommand :
    let s := { idle with schedule := [.host (.send (.setFrameRate 100))] }
    s.schedule = .host (.send (.setFrameRate 100)) :: [] ∧ s.phase = .idle ∧ s.driver.pending = .none := by decide

/-- F1 but its last byte in the window. -/
def lastByteWaiting : State := { framing [0x09, 0x59] with w := ⟨0, 0x59, 0x59, 0x64, 0, 0xE8, 3, 0, 8⟩, n := 8 }

/-- Vector Q2 but its last byte in the window. -/
def lastReplyByteWaiting : State := { awaiting .softReset [0x62] with w := ⟨0, 0x5A, 5, 2, 1, 0, 0, 0, 0⟩, n := 4 }

theorem witness_blockTurn (s : State) (h : s.schedule = []) : blockTurn s s := .inl ⟨h, rfl⟩

theorem witness_blockTurn_listed :
    blockTurn { idle with schedule := [.block, .clock 3] } { idle with schedule := [.clock 3] } := .inr ⟨_, rfl, rfl⟩

theorem witness_StepRunsWindowFrame :
    blockTurn lastByteWaiting lastByteWaiting ∧ lastByteWaiting.attemptRuns ∧ lastByteWaiting.rxq = 0x09 :: [0x59] ∧
    min (lastByteWaiting.n + 1) lastByteWaiting.len = lastByteWaiting.len ∧
    decode lastByteWaiting.cfg lastByteWaiting.context (lastByteWaiting.tookByte 0x09 [0x59]).window
      = .ok (.meas 100 1000 0x0800 0x09) :=
  ⟨.inl ⟨rfl, rfl⟩, by decide, rfl, by decide, by decide⟩

theorem witness_StepRunsWindowFrame_reply :
    blockTurn lastReplyByteWaiting lastReplyByteWaiting ∧ lastReplyByteWaiting.attemptRuns ∧
    lastReplyByteWaiting.rxq = 0x62 :: [] ∧
    min (lastReplyByteWaiting.n + 1) lastReplyByteWaiting.len = lastReplyByteWaiting.len ∧
    decode lastReplyByteWaiting.cfg lastReplyByteWaiting.context (lastReplyByteWaiting.tookByte 0x62 []).window
      = .ok (.softResetReply [0x02, 0x01] 0x62) :=
  ⟨.inl ⟨rfl, rfl⟩, by decide, rfl, by decide, by decide⟩

/-- A full frame window whose next shift brings no header pair to its front. -/
def noHeader : State := { framing [0x09] with n := 9, w := ⟨0, 0x59, 0x12, 0x59, 0x59, 0x64, 0, 0xE8, 3⟩ }

/-- A full reply window whose next shift brings no lead byte to its front. -/
def noLead : State := { awaiting .softReset [0x09] with n := 5, w := ⟨0x5A, 0x59, 0x5A, 5, 2, 0, 0, 0, 0⟩ }

/-- The three clauses: the window not full, no header, no lead. -/
theorem witness_ByteWithoutCandidate :
    (blockTurn (framing [0x59]) (framing [0x59]) ∧ (framing [0x59]).attemptRuns ∧ (framing [0x59]).rxq = 0x59 :: [] ∧
      min ((framing [0x59]).n + 1) (framing [0x59]).len ≠ (framing [0x59]).len) ∧
    (blockTurn noHeader noHeader ∧ noHeader.attemptRuns ∧ noHeader.rxq = 0x09 :: [] ∧ noHeader.phase = .fSync ∧
      ¬((noHeader.w.shift noHeader.len 0x09).reg 0 = noHeader.cfg.hdr0 ∧
        (noHeader.w.shift noHeader.len 0x09).reg 1 = noHeader.cfg.hdr1)) ∧
    (blockTurn noLead noLead ∧ noLead.attemptRuns ∧ noLead.rxq = 0x09 :: [] ∧ noLead.phase = .rSync ∧
      ¬((noLead.w.shift noLead.len 0x09).reg 0 = noLead.cfg.cmdLead ∧
        ((noLead.w.shift noLead.len 0x09).reg 1).toNat = noLead.len)) :=
  ⟨⟨.inl ⟨rfl, rfl⟩, by decide, rfl, by decide⟩, ⟨.inl ⟨rfl, rfl⟩, by decide, rfl, rfl, by decide⟩,
   ⟨.inl ⟨rfl, rfl⟩, by decide, rfl, rfl, by decide⟩⟩

/-- The invariant holds in the middle of a frame attempt. -/
theorem lastByteWaiting_inv : lastByteWaiting.Inv where
  cfgWf := by decide
  nRange := by decide
  lenRange := by decide
  t0Range := by decide
  nowRange := by decide
  outRange := trivial
  filled := .inr (by decide)
  frameLength := fun _ => rfl
  replyLength := fun h => absurd h (by decide)
  noOutcome := fun _ => rfl
  unfilledZero := fun _ i h => by
    have h1 : i < 1 := h
    interval_cases i
    rfl

/-- And in the middle of a reply wait. -/
theorem lastReplyByteWaiting_inv : lastReplyByteWaiting.Inv where
  cfgWf := by decide
  nRange := by decide
  lenRange := by decide
  t0Range := by decide
  nowRange := by decide
  outRange := trivial
  filled := .inr (by decide)
  frameLength := fun h => absurd h (by decide)
  replyLength := fun _ => by decide
  noOutcome := fun _ => rfl
  unfilledZero := fun _ i h => by
    have h1 : i < 1 := h
    interval_cases i
    rfl

theorem witness_CandidateEndsAttempt :
    (lastByteWaiting.Inv ∧ blockTurn lastByteWaiting lastByteWaiting ∧ lastByteWaiting.attemptRuns ∧
      lastByteWaiting.rxq = 0x09 :: [0x59] ∧ min (lastByteWaiting.n + 1) lastByteWaiting.len = lastByteWaiting.len ∧
      lastByteWaiting.phase = .fSync ∧
      (lastByteWaiting.w.shift lastByteWaiting.len 0x09).reg 0 = lastByteWaiting.cfg.hdr0 ∧
      (lastByteWaiting.w.shift lastByteWaiting.len 0x09).reg 1 = lastByteWaiting.cfg.hdr1) ∧
    (lastReplyByteWaiting.Inv ∧ blockTurn lastReplyByteWaiting lastReplyByteWaiting ∧ lastReplyByteWaiting.attemptRuns ∧
      lastReplyByteWaiting.rxq = 0x62 :: [] ∧
      min (lastReplyByteWaiting.n + 1) lastReplyByteWaiting.len = lastReplyByteWaiting.len ∧
      lastReplyByteWaiting.phase = .rSync ∧
      (lastReplyByteWaiting.w.shift lastReplyByteWaiting.len 0x62).reg 0 = lastReplyByteWaiting.cfg.cmdLead ∧
      ((lastReplyByteWaiting.w.shift lastReplyByteWaiting.len 0x62).reg 1).toNat = lastReplyByteWaiting.len) :=
  ⟨⟨lastByteWaiting_inv, .inl ⟨rfl, rfl⟩, by decide, rfl, by decide, rfl, by decide, by decide⟩,
   ⟨lastReplyByteWaiting_inv, .inl ⟨rfl, rfl⟩, by decide, rfl, by decide, rfl, by decide, by decide⟩⟩

/-- Exactly at the two deadlines, 150 and 1000 ms, a byte waiting. -/
theorem witness_DeadlineEndsAttempt :
    blockTurn { framing [0x59] with now := 150 } { framing [0x59] with now := 150 } ∧
    (framing [0x59]).phase = .fSync ∧ (framing [0x59]).cfg.frameDeadlineMs ≤ { framing [0x59] with now := 150 }.elapsed ∧
    (awaiting .softReset []).phase = .rSync ∧
    (awaiting .softReset []).cfg.replyDeadlineMs ≤ { awaiting .softReset [] with now := 1000 }.elapsed :=
  ⟨.inl ⟨rfl, rfl⟩, rfl, by decide, rfl, by decide⟩

theorem witness_IdleWaitStutters :
    blockTurn (framing []) (framing []) ∧ { framing [] with now := 149 }.attemptRuns ∧ (framing []).rxq = [] ∧
    { awaiting .softReset [] with now := 999 }.attemptRuns ∧ idle.phase = .idle :=
  ⟨.inl ⟨rfl, rfl⟩, by decide, rfl, by decide, rfl⟩

theorem witness_BlockTurnFrame : (nextOf lastByteWaiting.blockStep).isSome = true := by decide

theorem witness_OnlyHostTurnsStop :
    (∀ r, Turn.block ≠ .host r) ∧ (∀ r, Turn.lineIn 0 ≠ .host r) ∧
    step { framing [] with schedule := [.host .decode] } = .fault .startWhileBusy ∧
    step { idle with cfg := brokenTable, schedule := [.host .decode] } = .refused .illFormedTable :=
  ⟨by simp, by simp, rfl, rfl⟩

theorem witness_ElapsedAcrossWrap :
    149 < 2 ^ 32 ∧ { idle with schedule := [.clock 149] }.schedule = .clock 149 :: [] := by decide

/-- RXQ unbounded; of depth 1 and empty; of depth 1 and full. -/
theorem witness_LineInAppends :
    { idle with schedule := [.lineIn 0x59] }.schedule = .lineIn 0x59 :: [] ∧ idle.cfg.rxqDepth = none ∧
    { Cfg.standard with rxqDepth := some 1 }.rxqDepth = some 1 ∧ idle.rxq.length < 1 ∧
    1 ≤ { idle with rxq := [0x59] }.rxq.length := by decide

theorem witness_ResetInputEffect : { lastByteWaiting with schedule := [.reset] }.schedule = .reset :: [] := rfl

theorem witness_StepKeepsWellFormed :
    lastByteWaiting.Inv ∧ (nextOf (step lastByteWaiting)).isSome = true := ⟨lastByteWaiting_inv, by decide⟩

/-- One command transmitted, and the turn of the second. -/
theorem witness_StepKeepsOutputFramed :
    let s := { idle with txq := [0x5A, 0x04, 0x02, 0x60], schedule := [.host (.send .saveSettings)] }
    TxFramed s.cfg s.txq ∧ (nextOf (step s)).isSome = true := ⟨⟨[.softReset], by decide⟩, by decide⟩

theorem witness_PhaseMovesAsListed :
    (nextOf (step { idle with schedule := [.host .decode] })).isSome = true ∧ (nextOf (step lastByteWaiting)).isSome = true := by
  decide

theorem witness_ConfigurationConstant : (nextOf (step lastByteWaiting)).isSome = true := by decide

/-- Vector S1's stream: noise, a lone header byte, the frame at index 3. -/
def noisyStream : List Byte := [0x00, 0x59, 0x12, 0x59, 0x59, 0x64, 0x00, 0xE8, 0x03, 0x00, 0x08, 0x09, 0x59]

/-- The stream's first five bytes wait; the rest arrives among turns of the block and the Clock, at most 149 ms in all. -/
def mixedTurns : List Turn :=
  [.block, .clock 100, .lineIn 0x64, .block, .lineIn 0x00, .lineIn 0xE8, .clock 49, .lineIn 0x03, .lineIn 0x00, .lineIn 0x08,
   .lineIn 0x09, .block, .lineIn 0x59]

theorem witness_FirstCandidateDecides :
    let turns := mixedTurns ++ List.replicate (3 + 9) Turn.block
    let s := { framing [0x00, 0x59, 0x12, 0x59, 0x59] with schedule := turns }
    let stream := s.rxq ++ deliveredBytes turns
    s.schedule = turns ∧ (∀ u ∈ turns, u.whileWaiting = true) ∧ s.cfg.rxqDepth = none ∧ s.phase = .fSync ∧ s.n = 0 ∧
    s.len = 9 ∧ s.out = .none ∧ s.elapsed + elapsedOver turns < s.cfg.frameDeadlineMs ∧ stream = noisyStream ∧
    3 + 9 ≤ stream.length ∧ byteAt stream 3 = s.cfg.hdr0 ∧ byteAt stream (3 + 1) = s.cfg.hdr1 ∧
    (∀ i, i < 3 → ¬(byteAt stream i = s.cfg.hdr0 ∧ byteAt stream (i + 1) = s.cfg.hdr1)) := by decide

theorem witness_NoiseThenFrameIsRead :
    let s := { idle with
      rxq := [0x00, 0x59, 0x12, 0x59, 0x59], schedule := .host .decode :: (mixedTurns ++ List.replicate (3 + 9) Turn.block) }
    s.schedule = .host .decode :: (mixedTurns ++ List.replicate (3 + 9) Turn.block) ∧
    (∀ u ∈ mixedTurns, u.whileWaiting = true) ∧ s.cfg.rxqDepth = none ∧ s.phase = .idle ∧ s.driver.pending = .none ∧
    s.cfg.wf = true ∧ elapsedOver mixedTurns < s.cfg.frameDeadlineMs ∧
    (0x09 : Byte) = cksum (measBytes s.cfg 100 1000 0x0800 0).dropLast ∧
    s.rxq ++ deliveredBytes mixedTurns = [0x00, 0x59, 0x12] ++ measBytes s.cfg 100 1000 0x0800 0x09 ++ [0x59] ∧
    (∀ i, i < 3 → ¬(byteAt (s.rxq ++ deliveredBytes mixedTurns) i = s.cfg.hdr0 ∧
      byteAt (s.rxq ++ deliveredBytes mixedTurns) (i + 1) = s.cfg.hdr1)) := by decide

theorem witness_NothingCarriesOver :
    idle.phase = .idle ∧ (idle.cfg.row Command.softReset.name).replyLength ≠ 0 := by decide

/-! The host's software. -/

/-- A host whose device state is `d`. -/
def hosting (d : DeviceState) : State := { idle with driver := { Driver.initial with device := d } }

theorem witness_SleepingTickReadsNothing :
    (hosting .sleeping).hostFree = true ∧ (hosting .sleeping).driver.device = .sleeping := by decide

/-- Due: Online; wake grace at its last millisecond; back-off cleared; the retry interval just over. Not due: a millisecond less. -/
theorem witness_TickAttemptsRead :
    (hosting .online).hostFree = true ∧ (hosting .online).cfg.wf = true ∧ (hosting .online).driver.device = .online ∧
    (hosting .offline).driver.device ≠ .sleeping ∧ (hosting .offline).driver.lastRetry = none ∧
    { Driver.initial with lastRetry := some 0, wakeGraceDeadline := some 5000 }.inGrace Cfg.standard 4999 = true ∧
    Cfg.standard.driver.retryIntervalMs ≤ timeSince Cfg.standard.nowWidth 60000 0 ∧
    ¬Cfg.standard.driver.retryIntervalMs ≤ timeSince Cfg.standard.nowWidth 59999 0 ∧
    { Driver.initial with lastRetry := some 0, wakeGraceDeadline := some 5000 }.inGrace Cfg.standard 5000 = false := by decide

/-- The outcome `o` of a host operation waits to be taken. -/
def outcomeWaiting (d : DeviceState) (p : Pending) (o : Out) : State :=
  { idle with out := o, driver := { Driver.initial with device := d, pending := p, lastGoodFrame := some 0 } }

theorem witness_GoodFrameGoesOnline :
    let s := outcomeWaiting .offline .read (.reading 100 1000 0 .ok)
    s.phase = .idle ∧ s.driver.pending = .read ∧ s.out = .reading 100 1000 0 .ok ∧ s.driver.device ≠ .online := by decide

/-- Just over the threshold of 1 s and exactly at it, from Online and from Offline; 5 s inside the wake-grace window. -/
theorem witness_OfflineDeclaredOnce :
    let s := { outcomeWaiting .online .read (.frameFail .headerSyncFailed) with now := 1001 }
    s.phase = .idle ∧ s.driver.pending = .read ∧ s.out = .frameFail .headerSyncFailed ∧ s.driver.inGrace s.cfg 1001 = false ∧
    s.driver.lastGoodFrame = some 0 ∧ s.cfg.driver.offlineTimeoutMs < timeSince s.cfg.nowWidth 1001 0 ∧
    ¬s.cfg.driver.offlineTimeoutMs < timeSince s.cfg.nowWidth 1000 0 ∧
    { s.driver with wakeGraceDeadline := some 5000 }.inGrace s.cfg 1001 = true ∧
    ¬s.cfg.driver.offlineTimeoutGraceMs < timeSince s.cfg.nowWidth 1001 0 ∧
    (outcomeWaiting .offline .read (.frameFail .checksumFailed)).driver.device = .offline := by decide

/-- sleep() with Pass and with a timeout, wake() with Pass and with a failure, and both ends of the wake-grace window. -/
theorem witness_SleepAndWakeOutcomes :
    (outcomeWaiting .online .sleep (.cmd .pass)).phase = .idle ∧
    (outcomeWaiting .online .sleep (.cmd .pass)).driver.pending = .sleep ∧
    (outcomeWaiting .online .sleep (.cmd .pass)).out = .cmd .pass ∧
    (outcomeWaiting .online .sleep (.cmd .timeout)).phase = .idle ∧
    (outcomeWaiting .online .sleep (.cmd .timeout)).driver.pending = .sleep ∧
    (outcomeWaiting .online .sleep (.cmd .timeout)).out = .cmd .timeout ∧ CmdResult.timeout ≠ .pass ∧
    (outcomeWaiting .sleeping .wake (.cmd .pass)).phase = .idle ∧
    (outcomeWaiting .sleeping .wake (.cmd .pass)).driver.pending = .wake ∧
    (outcomeWaiting .sleeping .wake (.cmd .pass)).out = .cmd .pass ∧
    (outcomeWaiting .sleeping .wake (.cmd .fail)).phase = .idle ∧
    (outcomeWaiting .sleeping .wake (.cmd .fail)).driver.pending = .wake ∧
    (outcomeWaiting .sleeping .wake (.cmd .fail)).out = .cmd .fail ∧ CmdResult.fail ≠ .pass ∧
    0 < Cfg.standard.driver.wakeGraceMs ∧
    Cfg.standard.driver.wakeGraceMs < 2 ^ Cfg.standard.nowWidth ∧ 4999 < Cfg.standard.driver.wakeGraceMs := by decide

/-- A window that goes on and one that is just over; a report allowed and one not yet; failures after a report, up to the last
millisecond of its window. -/
theorem witness_ReportsRateLimited :
    let d := { Driver.initial with errorWindowStart := some 0, errorWindowCount := 7, lastErrorLog := some 0 }
    let failures : List (Nat × Bool × StatusCode) := [(1, true, .headerSyncFailed), (59999, true, .checksumFailed)]
    d.errorWindowStart = some 0 ∧ timeSince Cfg.standard.nowWidth 59999 0 < Cfg.standard.driver.errorWindowMs ∧
    ¬timeSince Cfg.standard.nowWidth 60000 0 < Cfg.standard.driver.errorWindowMs ∧ d.lastErrorLog = some 0 ∧
    Driver.initial.lastErrorLog = none ∧
    (∀ f ∈ failures, timeSince Cfg.standard.nowWidth f.1 0 < Cfg.standard.driver.errorWindowMs) := by decide

/-- R114 by hand: the failure that crosses the boundary restarts the count and may be reported. -/
theorem test_error_window :
    let d := { Driver.initial with errorWindowStart := some 0, errorWindowCount := 7, lastErrorLog := some 0 }
    (d.record Cfg.standard 59999 true .timeout).errorWindowCount = 8 ∧
    (d.record Cfg.standard 59999 true .timeout).reports = [] ∧
    (d.record Cfg.standard 60000 true .timeout).reports = [(1, .timeout)] := by decide

end Sys2Proof.Tests
end

section
/-! SUPPORT. The rules of the state that the statements about every step need: what each operation keeps of the state's
well-formedness (R35), what a turn that does not stop does, and what a start step reads. -/

namespace Sys2Proof.Machine

/-! What the surroundings of the block cannot touch. -/

theorem State.cfg_of_sameBlock {s t : State} (h : t.sameBlock s) : t.cfg = s.cfg :=
  (congrArg State.cfg h : t.cfg = (s.withSurroundings _ _ _).cfg)

theorem State.phase_of_sameBlock {s t : State} (h : t.sameBlock s) : t.phase = s.phase :=
  (congrArg State.phase h : t.phase = (s.withSurroundings _ _ _).phase)

/-- Taking a turn off the schedule leaves the block as it is. -/
theorem State.sameBlock_of_schedule {s t : State} (h : t = { s with schedule := t.schedule }) : t.sameBlock s := by
  rw [h]
  rfl

/-- Well-formedness speaks of the block's registers and the clock only. -/
theorem State.Inv.of_sameBlock {s t : State} (hs : s.Inv) (h : t.sameBlock s) : t.Inv := by
  rw [h]
  exact { hs with }

/-- No content of `RXQ` is ill-formed (R26). -/
theorem State.Inv.setRxq {s : State} (hs : s.Inv) (q : List Byte) : State.Inv { s with rxq := q } := { hs with }

/-- The Clock keeps `NOW` in its range (R28). -/
theorem State.Inv.clock {s : State} (hs : s.Inv) (ms : Nat) : (s.clock ms).Inv :=
  { hs with nowRange := Nat.mod_lt _ (by positivity) }

/-! What the ends of an attempt leave in `OUT` (R24). -/

theorem tempOfRaw_fits (arith : Bool) {raw : Nat} (h : raw < 65536) : fitsI16 (tempOfRaw arith raw) := by
  have hs := s16_range h
  cases arith with
  | true => simp only [tempOfRaw, if_true]; omega
  | false => simp only [tempOfRaw, Bool.false_eq_true, if_false]; omega

theorem frameOutcome_fits (cfg : Cfg) (f : List Byte) : (frameOutcome cfg f).fits := by
  unfold frameOutcome
  split
  · exact ⟨s16_range (u16le_lt _ _), s16_range (u16le_lt _ _), tempOfRaw_fits _ (u16le_lt _ _)⟩
  · trivial

/-- The end of an attempt, with an outcome in its range (R125). -/
theorem State.Inv.finish {s : State} (hs : s.Inv) {o : Out} (ho : o.fits) : (s.finish o).Inv :=
  { hs with
    outRange := ho
    filled := .inl rfl
    frameLength := nofun
    replyLength := nofun
    noOutcome := fun h => absurd rfl h
    unfilledZero := fun h => absurd rfl h }

/-! One byte taken (R61). -/

/-- SHIFT moves the zero part of the window down by one register and takes the new byte in above it. -/
theorem Window.reg_shift_of_unfilled {w : Window} {n len : Nat} (b : Byte) (hlen : len ≤ 9)
    (hz : ∀ i, i < len - n → w.reg i = 0) {i : Nat} (hi : i < len - min (n + 1) len) : (w.shift len b).reg i = 0 := by
  rw [Window.reg_shift w len b (by omega), if_pos (by omega)]
  exact hz (i + 1) (by omega)

/-- A byte taken while an attempt runs: the filled part grows by one up to `LEN`, and the rest stays zero (R35 (i), (v)). -/
theorem State.Inv.tookByte {s : State} (hs : s.Inv) (hp : s.phase ≠ .idle) (b : Byte) (q : List Byte) :
    (s.tookByte b q).Inv :=
  { hs with
    nRange := (min_le_right _ _).trans hs.lenRange.2
    filled := .inr (min_le_right _ _)
    unfilledZero := fun _ _ hi =>
      Window.reg_shift_of_unfilled b hs.lenRange.2 (hs.unfilledZero hp) hi }

/-- Whatever a block's turn does, the state stays well-formed. -/
theorem BlockCase.inv {s t : State} (h : BlockCase s t) (hs : s.Inv) : t.Inv := by
  cases h with
  | stutter h => exact h ▸ hs
  | expired _ o ho h =>
    subst h
    exact hs.finish (by rcases ho with rfl | rfl <;> trivial)
  | byte hp b q _ h => exact h ▸ hs.tookByte hp b q
  | frame hp b q _ f h => exact h ▸ (hs.tookByte (by simp [hp]) b q).finish (frameOutcome_fits _ f)
  | reply hp b q _ r h => exact h ▸ (hs.tookByte (by simp [hp]) b q).finish trivial

/-! The starts of an attempt (R62, R77). -/

/-- A table that R30 admits awaits no reply longer than the window or without a body. -/
theorem replyLength_range {cfg : Cfg} (hw : cfg.wf = true) {c : CmdName} (h : (cfg.row c).replyLength ≠ 0) :
    3 ≤ (cfg.row c).replyLength ∧ (cfg.row c).replyLength ≤ 9 := by
  have hrow := Sys2Proof.Laws.row_wf hw c
  simp only [Descriptor.wf, Bool.and_eq_true, Bool.or_eq_true, beq_iff_eq, decide_eq_true_eq] at hrow
  omega

theorem State.Inv.decodeStarted {s : State} (hs : s.Inv) : (s.beginAttempt .fSync 9).Inv :=
  { hs with
    nRange := Nat.zero_le _
    lenRange := ⟨Nat.le_add_left 3 6, le_rfl⟩
    t0Range := hs.nowRange
    outRange := trivial
    filled := .inr (Nat.zero_le _)
    frameLength := fun _ => rfl
    replyLength := nofun
    noOutcome := fun _ => rfl
    unfilledZero := fun _ i _ => Window.reg_zero i }

theorem State.Inv.awaitingReply {s : State} (hs : s.Inv) {c : CmdName} (hc : (s.cfg.row c).replyLength ≠ 0)
    (frame : List Byte) : (s.awaitingReply c frame).Inv :=
  { hs with
    nRange := Nat.zero_le _
    lenRange := replyLength_range hs.cfgWf hc
    t0Range := hs.nowRange
    outRange := trivial
    filled := .inr (Nat.zero_le _)
    frameLength := nofun
    replyLength := fun _ => rfl
    noOutcome := fun _ => rfl
    unfilledZero := fun _ i _ => Window.reg_zero i }

/-- SEND that awaits a reply, under the name the model's safety words give its state (R77). -/
theorem State.sendStep_of_reply {s : State} {c : CmdName} (h : (s.cfg.row c).replyLength ≠ 0) (p : Nat) :
    s.sendStep c p = s.awaitingReply c (encodeCommand s.cfg (s.cfg.row c) p) := by
  rcases State.sendStep_cases c p s with ⟨h0, -⟩ | ⟨-, e⟩
  · exact absurd h0 h
  · exact e

/-- SEND without a reply: drained, transmitted, and ended at once (R83). -/
theorem State.sendStep_of_noReply {s : State} {c : CmdName} (h : (s.cfg.row c).replyLength = 0) (p : Nat) :
    s.sendStep c p = (s.rxDrain.txPush (encodeCommand s.cfg (s.cfg.row c) p)).finish (.cmd .pass) := by
  simp [State.sendStep, h]

theorem State.Inv.sendStep {s : State} (hs : s.Inv) (c : CmdName) (p : Nat) : (s.sendStep c p).Inv := by
  by_cases h : (s.cfg.row c).replyLength = 0
  · rw [State.sendStep_of_noReply h]
    have sent : (s.rxDrain.txPush (encodeCommand s.cfg (s.cfg.row c) p)).Inv := { hs with }
    exact sent.finish trivial
  · rw [State.sendStep_of_reply h]
    exact hs.awaitingReply h _

/-! The reset input (R34, R136): every free value is reduced to its register's range. -/

theorem State.Inv.resetInput {s : State} (hs : s.Inv) : s.resetInput.Inv :=
  { hs with
    nRange := Nat.le_of_lt_succ (Nat.mod_lt _ (by decide))
    lenRange := ⟨Nat.le_add_right _ _, Nat.add_le_add_left (Nat.le_of_lt_succ (Nat.mod_lt _ (by decide))) 3⟩
    t0Range := Nat.mod_lt _ (by positivity)
    outRange := trivial
    filled := .inl rfl
    frameLength := nofun
    replyLength := nofun
    noOutcome := fun h => absurd rfl h
    unfilledZero := fun h => absurd rfl h }

/-- Whatever a step does, the state stays well-formed. -/
theorem StepCase.inv {s t : State} (h : StepCase s t) (hs : s.Inv) : t.Inv := by
  cases h with
  | block s0 h0 h => exact (State.blockStep_inv h).inv (hs.of_sameBlock (State.sameBlock_of_schedule h0))
  | surroundings h => exact hs.of_sameBlock h
  | line q h => exact (hs.setRxq q).of_sameBlock h
  | clock ms h => exact (hs.clock ms).of_sameBlock h
  | decode _ _ h => exact hs.decodeStarted.of_sameBlock h
  | send _ _ c p _ h => exact (hs.sendStep c.name p).of_sameBlock h
  | reset s0 h0 h => exact h ▸ (hs.of_sameBlock (State.sameBlock_of_schedule h0)).resetInput

/-! The moves of `PHASE` (R20). -/

theorem phaseMove_refl (p : Phase) : phaseMove p p := .inl rfl

/-- From every phase the block may go to IDLE. -/
theorem phaseMove_idle (p : Phase) : phaseMove p .idle := by
  cases p <;> decide

/-- From IDLE every phase may be entered. -/
theorem phaseMove_of_idle (p : Phase) : phaseMove .idle p := by
  cases p <;> decide

theorem BlockCase.phase_moves {s t : State} (h : BlockCase s t) : phaseMove s.phase t.phase := by
  cases h with
  | stutter h => exact h ▸ phaseMove_refl _
  | expired _ _ _ h => exact h ▸ phaseMove_idle _
  | byte _ _ _ _ h => exact h ▸ phaseMove_refl _
  | frame _ _ _ _ _ h => exact h ▸ phaseMove_idle _
  | reply _ _ _ _ _ h => exact h ▸ phaseMove_idle _

theorem StepCase.phase_moves {s t : State} (h : StepCase s t) : phaseMove s.phase t.phase := by
  cases h with
  | block s0 h0 h => exact State.phase_of_sameBlock (State.sameBlock_of_schedule h0) ▸ (State.blockStep_inv h).phase_moves
  | surroundings h => exact State.phase_of_sameBlock h ▸ phaseMove_refl _
  | line _ h => exact State.phase_of_sameBlock h ▸ phaseMove_refl _
  | clock _ h => exact State.phase_of_sameBlock h ▸ phaseMove_refl _
  | decode hp _ _ => exact hp ▸ phaseMove_of_idle _
  | send hp _ _ _ _ _ => exact hp ▸ phaseMove_of_idle _
  | reset _ _ h => exact h ▸ phaseMove_idle _

/-! `Cfg` is written by nothing (R16). -/

theorem BlockCase.cfg_eq {s t : State} (h : BlockCase s t) : t.cfg = s.cfg := by
  cases h with
  | stutter h => rw [h]
  | expired _ _ _ h => rw [h, State.finish_cfg]
  | byte _ _ _ _ h => rw [h]; rfl
  | frame _ _ _ _ _ h => rw [h, State.finish_cfg]; rfl
  | reply _ _ _ _ _ h => rw [h, State.finish_cfg]; rfl

@[simp] theorem State.resetInput_cfg (s : State) : s.resetInput.cfg = s.cfg := rfl

@[simp] theorem State.sendStep_cfg (c : CmdName) (p : Nat) (s : State) : (s.sendStep c p).cfg = s.cfg := by
  rcases State.sendStep_cases c p s with ⟨-, e⟩ | ⟨-, e⟩ <;> rw [e]

theorem StepCase.cfg_eq {s t : State} (h : StepCase s t) : t.cfg = s.cfg := by
  cases h with
  | block s0 h0 h => exact (State.blockStep_inv h).cfg_eq.trans (State.cfg_of_sameBlock (State.sameBlock_of_schedule h0))
  | surroundings h => exact State.cfg_of_sameBlock h
  | line q h => exact State.cfg_of_sameBlock (s := { s with rxq := q }) h
  | clock ms h => exact (State.cfg_of_sameBlock h).trans (State.clock_cfg ms s)
  | decode _ _ h => exact (State.cfg_of_sameBlock h).trans (State.beginAttempt_cfg .fSync 9 s)
  | send _ _ c p _ h => exact (State.cfg_of_sameBlock h).trans (State.sendStep_cfg c.name p s)
  | reset s0 h0 h =>
    rw [h, State.resetInput_cfg]
    exact State.cfg_of_sameBlock (State.sameBlock_of_schedule h0)

/-! The turns of the host and of Line-in. -/

theorem State.serialised_of_free {k : State → Answer} {s : State} (hp : s.phase = .idle) (hd : s.driver.pending = .none) :
    s.serialised k = k s := by
  simp [State.serialised, State.hostFree, hp, hd]

theorem State.lineIn_of_room {s : State} (b : Byte)
    (h : s.cfg.rxqDepth = none ∨ ∃ d, s.cfg.rxqDepth = some d ∧ s.rxq.length < d) :
    s.lineIn b = { s with rxq := s.rxq ++ [b] } := by
  rcases h with h | ⟨d, h, hd⟩
  · exact State.lineIn_unbounded b h
  · simp [State.lineIn, h, hd]

/-- A byte that meets a full `RXQ` (U4). -/
theorem State.lineIn_of_full {s : State} (b : Byte) {d : Nat} (h : s.cfg.rxqDepth = some d) (hd : d ≤ s.rxq.length) :
    s.lineIn b = { s with rxq := (Config.overflowRxq s.free).take d, free := s.free + 1 } := by
  simp [State.lineIn, h, hd]

/-! What a start step reads. -/

/-- A start reads `PHASE` and `Cfg`, and otherwise only what its effect reads. -/
theorem State.start_congr {k : State → State} {s t : State} (hp : s.phase = t.phase) (hc : s.cfg = t.cfg)
    (hk : k s = k t) : s.start k = t.start k := by
  simp only [State.start, hp, hc, hk]

/-- A command's operand does not depend on the state it meets (R77, R84). -/
theorem exec_command_uniform (c : Command) : ∃ p, ∀ s : State, exec c.instr s = s.send c.name p := by
  cases c <;> exact ⟨_, fun _ => rfl⟩

end Sys2Proof.Machine
end

section
/-! The statements of the family 10_state.md. -/

namespace Sys2Proof.Machine

/-- Settles O38, by the cases of a step: each operation on the state keeps `State.Inv`. -/
theorem stepKeepsWellFormed : Obligations.StepKeepsWellFormed :=
  fun _ _ hs h => (step_inv h).inv hs

/-- Settles O41, by the cases of a step: a start is taken in IDLE only, and every end of an attempt goes there. -/
theorem phaseMovesAsListed : Obligations.PhaseMovesAsListed :=
  fun _ _ h => (step_inv h).phase_moves

/-- Settles O42, by the cases of a step. -/
theorem configurationConstant : Obligations.ConfigurationConstant :=
  fun _ _ h => (step_inv h).cfg_eq

/-- Settles O26: a host that is free to act runs the command it names. -/
theorem stepRunsRequestedCommand : Obligations.StepRunsRequestedCommand := by
  intro c s rest hs hp hd
  rw [step_of_cons hs]
  exact State.serialised_of_free (s := { s with schedule := rest }) hp hd

/-- Settles O35: with room the byte is appended; a full `RXQ` takes the free value, cut to its depth. -/
theorem lineInAppends : Obligations.LineInAppends := by
  intro s b rest hs
  rw [step_of_cons hs]
  refine ⟨fun hroom => ?_, fun d hd hfull => ⟨(Config.overflowRxq s.free).take d, List.length_take_le _ _, ?_⟩⟩
  · exact congrArg Host.Outcome.next (State.lineIn_of_room (s := { s with schedule := rest }) b hroom)
  · exact congrArg Host.Outcome.next (State.lineIn_of_full (s := { s with schedule := rest }) b hd hfull)

/-- Settles O37. -/
theorem resetValues : Obligations.ResetValues := ⟨rfl, rfl, rfl, rfl, rfl⟩

/-- Settles O39: `PHASE` is IDLE, the ranges hold by the values, and the standard table passes R30. -/
theorem resetWellFormed : Obligations.ResetWellFormed where
  cfgWf := by decide
  nRange := by decide
  lenRange := by decide
  t0Range := by decide
  nowRange := by decide
  outRange := trivial
  filled := .inl rfl
  frameLength := nofun
  replyLength := nofun
  noOutcome := fun h => absurd rfl h
  unfilledZero := fun h => absurd rfl h

/-- Settles O46: a start writes every register it is asked about without reading it. -/
theorem nothingCarriesOver : Obligations.NothingCarriesOver := by
  intro s w n len t0 out cur _
  refine ⟨State.start_congr rfl rfl rfl, fun c hreply => ?_⟩
  obtain ⟨p, he⟩ := exec_command_uniform c
  rw [he, he]
  refine State.start_congr rfl rfl ?_
  calc State.sendStep c.name p { s with w := w, n := n, len := len, t0 := t0, out := out, cur := cur }
      = s.awaitingReply c.name (encodeCommand s.cfg (s.cfg.row c.name) p) :=
        State.sendStep_of_reply (s := { s with w := w, n := n, len := len, t0 := t0, out := out, cur := cur }) hreply p
    _ = s.sendStep c.name p := (State.sendStep_of_reply hreply p).symm

end Sys2Proof.Machine
end

section
/-! SUPPORT. R30 in words, and which registers a turn of the block writes. -/

namespace Sys2Proof

/-! A well-formed table (R30). -/

/-- R30 for one descriptor, its tests read as propositions. -/
theorem Descriptor.wf_iff (d : Descriptor) (failFlagOffset : Nat) : d.wf failFlagOffset = true ↔
    d.commandLength = 4 + d.paramWidth ∧
    (0 < d.paramWidth → d.paramOffset + d.paramWidth = d.commandLength - 1) ∧
    (d.replyLength = 0 ∨ (3 ≤ d.replyLength ∧ d.replyLength ≤ 9)) ∧
    (d.ack = true → failFlagOffset + 1 < d.replyLength) := by
  simp only [Descriptor.wf, Bool.and_eq_true, Bool.or_eq_true, Bool.not_eq_true', beq_iff_eq, decide_eq_true_eq,
    Nat.pos_iff_ne_zero, and_assoc, ← Bool.not_eq_true, Classical.or_iff_not_imp_left, not_not]

/-- The list the test runs over names every row. -/
theorem Cfg.wf_iff_rows (cfg : Cfg) : cfg.wf = true ↔ ∀ c, (cfg.row c).wf cfg.failFlagOffset = true :=
  ⟨Laws.row_wf, fun h => List.all_eq_true.mpr fun c _ => h c⟩

/-! SHIFT above the window in use (R61). -/

theorem Window.reg_of_ge (w : Window) {i : Nat} (h : 9 ≤ i) : w.reg i = 0 := by
  obtain ⟨k, rfl⟩ := Nat.exists_eq_add_of_le' h
  rfl

/-- SHIFT leaves the registers from `LEN` on as they were. -/
theorem Window.reg_shift_of_le (w : Window) (b : Byte) {len i : Nat} (h : len ≤ i) :
    (w.shift len b).reg i = w.reg i := by
  rcases Nat.lt_or_ge i 9 with hi | hi
  · rw [Window.reg_shift w len b hi, if_neg (by omega), if_neg (by omega)]
  · rw [Window.reg_of_ge _ hi, Window.reg_of_ge _ hi]

end Sys2Proof

namespace Sys2Proof.Machine

/-! The registers a turn of the block writes. -/

/-- A turn of the block writes `OUT` and `PHASE`, and what SHIFT writes where it took a byte (R61, R125). -/
theorem BlockCase.writes {s t : State} (h : BlockCase s t) :
    (∃ o p, t = { s with out := o, phase := p }) ∨
    ∃ b q o p, s.rxq = b :: q ∧ t = { s.tookByte b q with out := o, phase := p } := by
  cases h with
  | stutter h => exact .inl ⟨_, _, h⟩
  | expired _ _ _ h => exact .inl ⟨_, _, h⟩
  | byte _ b q hq h => exact .inr ⟨b, q, _, _, hq, h⟩
  | frame _ b q hq _ h => exact .inr ⟨b, q, _, _, hq, h⟩
  | reply _ b q hq _ h => exact .inr ⟨b, q, _, _, hq, h⟩

end Sys2Proof.Machine
end

section
/-! The statements of the family 20_memory.md. -/

namespace Sys2Proof.Machine

/-- Settles O32: a turn either takes no byte, or pops one and shifts it into the registers below `LEN`. -/
theorem blockTurnFrame : Obligations.BlockTurnFrame := by
  intro s t h
  rcases (State.blockStep_inv h).writes with ⟨o, p, rfl⟩ | ⟨b, q, o, p, hq, rfl⟩
  · exact ⟨rfl, rfl, rfl, rfl, rfl, rfl, rfl, rfl, rfl, .inl rfl, fun _ _ => rfl⟩
  · exact ⟨rfl, rfl, rfl, rfl, rfl, rfl, rfl, rfl, rfl, .inr ⟨b, hq⟩, fun _ hi => Window.reg_shift_of_le s.w b hi⟩

/-- Settles O12: DECODE and every command are start steps, whose three answers depend on `PHASE` and the table alone. -/
theorem startOnlyFromIdle : Obligations.StartOnlyFromIdle := by
  refine ⟨fun s => ⟨fun hp => ?busy, fun hp hw => ?illFormed, fun hp hw => ?idle⟩, fun cfg => ?table⟩
  case busy =>
    refine ⟨State.start_of_busy hp, fun c => ?_⟩
    obtain ⟨p, he⟩ := exec_command_uniform c
    exact (he s).trans (State.start_of_busy hp)
  case illFormed =>
    refine ⟨State.start_of_illFormed hp hw, fun c => ?_⟩
    obtain ⟨p, he⟩ := exec_command_uniform c
    exact (he s).trans (State.start_of_illFormed hp hw)
  case idle =>
    refine ⟨⟨_, State.start_of_idle hp hw⟩, fun c => ?_⟩
    obtain ⟨p, he⟩ := exec_command_uniform c
    exact ⟨_, (he s).trans (State.start_of_idle hp hw)⟩
  case table => exact (Cfg.wf_iff_rows cfg).trans (forall_congr' fun c => Descriptor.wf_iff _ _)

end Sys2Proof.Machine
end

section
/-! SUPPORT. What decodes in each context, and the parts of a frame: how its bytes are put together and taken apart. -/

namespace Sys2Proof

/-! A frame and its parts. -/

/-- The first `k` bytes of a frame by index. -/
theorem take_eq_map_byteAt {f : List Byte} {k : Nat} (h : k ≤ f.length) : f.take k = (List.range k).map (byteAt f) := by
  apply List.ext_getElem
  · simp [h]
  · intro i hi _
    have hlt : i < f.length := by simp at hi; omega
    simp [byteAt, List.getD_eq_getElem?_getD, hlt]

/-- A frame is its first `k` bytes, what stands between them and its last byte, and that last byte. -/
theorem take_append_middle_append_last {f : List Byte} {k : Nat} (h : k < f.length) :
    f.take k ++ (f.drop k).dropLast ++ [f.getLastD 0] = f := by
  have hne : f.drop k ≠ [] := by simpa using h
  have hlast : f.getLastD 0 = (f.drop k).getLast hne := by
    rw [List.getLast_drop, List.getLastD_eq_getLast?, List.getLast?_eq_some_getLast (List.ne_nil_of_length_pos (by omega))]
    rfl
  rw [hlast, List.append_assoc, List.dropLast_concat_getLast, List.take_append_drop]

/-- A checksum-valid frame ends in the checksum of its other bytes (R53). -/
theorem getLastD_of_cksumValid {f : List Byte} (h : cksumValid f = true) : f.getLastD 0 = cksum f.dropLast := by
  simp only [cksumValid, Bool.and_eq_true, beq_iff_eq] at h
  exact h.2

theorem low8_toNat (b : Byte) : low8 b.toNat = b := by simp [low8]

/-! Little-endian numbers. -/

theorem uLE_lt (l : List Byte) : uLE l < 256 ^ l.length := by
  induction l with
  | nil => simp [uLE]
  | cons b l ih =>
    have := b.isLt
    simp only [uLE, List.length_cons, Nat.pow_succ]
    omega

/-- The little-endian reading loses no bit of the bytes it reads (R12). -/
theorem bytesLE_uLE (l : List Byte) : bytesLE (uLE l) l.length = l := by
  induction l with
  | nil => rfl
  | cons b l ih =>
    have hb := b.isLt
    have hlow : low8 (b.toNat + 256 * uLE l) = b := by
      apply BitVec.eq_of_toNat_eq
      rw [toNat_low8]
      omega
    have hrest : (b.toNat + 256 * uLE l) / 256 = uLE l := by omega
    rw [List.length_cons, uLE, bytesLE, hlow, hrest, ih]

theorem bytesLE_pairAt (f : List Byte) (i : Nat) : bytesLE (pairAt f i).toNat 2 = [byteAt f i, byteAt f (i + 1)] := by
  have hval : (pairAt f i).toNat = uLE [byteAt f i, byteAt f (i + 1)] := by
    rw [pairAt, BitVec.toNat_ofNat, Nat.mod_eq_of_lt (u16le_lt _ _)]
    rfl
  rw [hval]
  exact bytesLE_uLE _

/-- A pair that holds the two bytes of a 16-bit field is that field (R40). -/
theorem pairAt_of_bytes {f : List Byte} {i : Nat} {v : BitVec 16} (hlo : byteAt f i = low8 v.toNat)
    (hhi : byteAt f (i + 1) = low8 (v.toNat / 256)) : pairAt f i = v := by
  rw [pairAt, hlo, hhi, u16le_bytes, BitVec.ofNat_toNat, BitVec.setWidth_eq]

/-! Instructions by context (R59). -/

/-- Every instruction is the measurement frame, a command with a parameter that fits its field, or a reply. -/
theorem Instr.cases_context (i : Instr) :
    (∃ dist strength temp ck, i = .meas dist strength temp ck) ∨
    (∃ c p, p < 256 ^ c.paramWidth ∧ i = commandInstr c p) ∨
    (∃ c body ck, i = replyInstr c body ck) := by
  cases i with
  | meas dist strength temp ck => exact .inl ⟨dist, strength, temp, ck, rfl⟩
  | softReset => exact .inr (.inl ⟨.softReset, 0, by decide, rfl⟩)
  | hardReset => exact .inr (.inl ⟨.hardReset, 0, by decide, rfl⟩)
  | setFrameRate p => exact .inr (.inl ⟨.setFrameRate, p.toNat, p.isLt, by simp [commandInstr]⟩)
  | setBaudRate p => exact .inr (.inl ⟨.setBaudRate, p.toNat, p.isLt, by simp [commandInstr]⟩)
  | saveSettings => exact .inr (.inl ⟨.saveSettings, 0, by decide, rfl⟩)
  | softResetReply body ck => exact .inr (.inr ⟨.softReset, body, ck, rfl⟩)
  | hardResetReply body ck => exact .inr (.inr ⟨.hardReset, body, ck, rfl⟩)
  | setFrameRateReply body ck => exact .inr (.inr ⟨.setFrameRate, body, ck, rfl⟩)
  | setBaudRateReply body ck => exact .inr (.inr ⟨.setBaudRate, body, ck, rfl⟩)
  | saveSettingsReply body ck => exact .inr (.inr ⟨.saveSettings, body, ck, rfl⟩)

theorem encode_commandInstr (cfg : Cfg) {c : CmdName} {p : Nat} (hp : p < 256 ^ c.paramWidth) :
    encode cfg (commandInstr c p) = encodeCommand cfg (cfg.row c) p := by
  cases c with
  | softReset | hardReset | saveSettings =>
    obtain rfl : p = 0 := by simpa [CmdName.paramWidth] using hp
    rfl
  | setFrameRate => exact congrArg (encodeCommand cfg _) (Nat.mod_eq_of_lt hp)
  | setBaudRate => exact congrArg (encodeCommand cfg _) (Nat.mod_eq_of_lt hp)

theorem wellFormed_commandInstr (cfg : Cfg) (c : CmdName) (p : Nat) : (commandInstr c p).wellFormed cfg = true := by
  cases c <;> rfl

theorem encode_replyInstr (cfg : Cfg) (c : CmdName) (body : List Byte) (ck : Byte) :
    encode cfg (replyInstr c body ck) = replyBytes cfg body ck := by
  cases c <;> rfl

theorem wellFormed_replyInstr (cfg : Cfg) (c : CmdName) (body : List Byte) (ck : Byte) :
    (replyInstr c body ck).wellFormed cfg = bodyFits cfg c body := by
  cases c <;> rfl

/-! What decodes, and to what. -/

/-- A test of the decoder is passed by whatever decodes. -/
theorem ite_error_eq_ok_iff {p : Prop} [Decidable p] {e : DecodeError} {r : Except DecodeError Instr} {i : Instr} :
    (if p then .error e else r) = .ok i ↔ ¬p ∧ r = .ok i := by
  split <;> simp [*]

theorem decodeMeasurement_eq_ok_iff {cfg : Cfg} {f : List Byte} {i : Instr} :
    decodeMeasurement cfg f = .ok i ↔
      f.length = frameLen ∧ byteAt f 0 = cfg.hdr0 ∧ byteAt f 1 = cfg.hdr1 ∧
      i = .meas (pairAt f 2) (pairAt f 4) (pairAt f 6) (byteAt f 8) := by
  simp only [decodeMeasurement, ite_error_eq_ok_iff, Except.ok.injEq, not_or, not_not, and_assoc,
    eq_comm (b := i)]

theorem decodeReply_eq_ok_iff {cfg : Cfg} {c : CmdName} {f : List Byte} {i : Instr} :
    decodeReply cfg c f = .ok i ↔
      f.length = (cfg.row c).replyLength ∧ 3 ≤ f.length ∧ byteAt f 0 = cfg.cmdLead ∧ (byteAt f 1).toNat = f.length ∧
      i = replyInstr c (f.drop 2).dropLast (f.getLastD 0) := by
  simp only [decodeReply, ite_error_eq_ok_iff, Except.ok.injEq, not_or, not_not, not_lt, and_assoc, eq_comm (b := i)]

theorem decodeOutbound_eq_ok_iff {cfg : Cfg} {f : List Byte} {i : Instr} :
    decodeOutbound cfg f = .ok i ↔
      4 ≤ f.length ∧ byteAt f 0 = cfg.cmdLead ∧ (byteAt f 1).toNat = f.length ∧ cksumValid f = true ∧
      ∃ c, cfg.lookup (byteAt f 2) f.length = some c ∧ i = commandInstr c (uLE (paramBytes (cfg.row c) f)) := by
  cases h : cfg.lookup (byteAt f 2) f.length with
  | none => simp only [decodeOutbound, h, ite_error_eq_ok_iff, reduceCtorEq, false_and, exists_false, and_false]
  | some c =>
    simp only [decodeOutbound, h, ite_error_eq_ok_iff, Except.ok.injEq, Option.some.injEq, exists_eq_left', not_not,
      not_lt, Bool.not_eq_false, eq_comm (b := i)]

/-- The row the lookup finds has the opcode byte and the length it was asked for. -/
theorem Cfg.row_of_lookup {cfg : Cfg} {op : Byte} {n : Nat} {c : CmdName} (h : cfg.lookup op n = some c) :
    (cfg.row c).opcodeByte = op ∧ (cfg.row c).commandLength = n := by
  simpa using List.find?_some h

/-- Under a table that R30 admits the parameter stands between the opcode byte and the checksum, where there is one (R54). -/
theorem paramBytes_of_wf {cfg : Cfg} (hw : cfg.wf = true) {c : CmdName} {f : List Byte}
    (hlen : f.length = (cfg.row c).commandLength) : paramBytes (cfg.row c) f = (f.drop 3).dropLast := by
  obtain ⟨hcmd, hoff, -, -⟩ := (Descriptor.wf_iff _ _).1 (Laws.row_wf hw c)
  have hwidth : (f.drop 3).length - 1 = (cfg.row c).paramWidth := by simp; omega
  rw [List.dropLast_eq_take, hwidth, paramBytes]
  rcases Nat.eq_zero_or_pos (cfg.row c).paramWidth with h0 | hpos
  · rw [h0, List.take_zero, List.take_zero]
  · have h3 : (cfg.row c).paramOffset = 3 := by have := hoff hpos; omega
    rw [h3]

/-! Encoding what was decoded: each format's bytes are recovered (R51, R54, R55). -/

theorem measBytes_pairs {cfg : Cfg} {f : List Byte} (hlen : f.length = 9) (h0 : byteAt f 0 = cfg.hdr0)
    (h1 : byteAt f 1 = cfg.hdr1) : measBytes cfg (pairAt f 2) (pairAt f 4) (pairAt f 6) (byteAt f 8) = f := by
  simp only [measBytes, bytesLE_pairAt, ← h0, ← h1]
  calc _ = (List.range 9).map (byteAt f) := rfl
    _ = f.take 9 := (take_eq_map_byteAt hlen.ge).symm
    _ = f := List.take_of_length_le hlen.le

theorem replyBytes_middle {cfg : Cfg} {f : List Byte} (hlen : 3 ≤ f.length) (h0 : byteAt f 0 = cfg.cmdLead)
    (h1 : (byteAt f 1).toNat = f.length) : replyBytes cfg (f.drop 2).dropLast (f.getLastD 0) = f := by
  have hbody : (f.drop 2).dropLast.length + 3 = (byteAt f 1).toNat := by simp; omega
  rw [replyBytes, hbody, low8_toNat, ← h0]
  have htake : f.take 2 = [byteAt f 0, byteAt f 1] := take_eq_map_byteAt (by omega)
  rw [← htake]
  exact take_append_middle_append_last (by omega)

theorem encodeCommand_uLE {cfg : Cfg} {f : List Byte} {d : Descriptor} (hlen : f.length = d.paramWidth + 4)
    (hcmd : d.commandLength = f.length) (h0 : byteAt f 0 = cfg.cmdLead) (h1 : (byteAt f 1).toNat = f.length)
    (h2 : d.opcodeByte = byteAt f 2) (hck : cksumValid f = true) :
    encodeCommand cfg d (uLE (f.drop 3).dropLast) = f := by
  have hparts : f.take 3 ++ (f.drop 3).dropLast ++ [f.getLastD 0] = f := take_append_middle_append_last (by omega)
  have hbody : commandBody cfg d (uLE (f.drop 3).dropLast) = f.take 3 ++ (f.drop 3).dropLast := by
    have hwidth : d.paramWidth = (f.drop 3).dropLast.length := by simp; omega
    have htake : f.take 3 = [byteAt f 0, byteAt f 1, byteAt f 2] := take_eq_map_byteAt (by omega)
    rw [commandBody, hwidth, bytesLE_uLE, hcmd, ← h1, low8_toNat, h2, ← h0, htake]
  have hlast : cksum (f.take 3 ++ (f.drop 3).dropLast) = f.getLastD 0 := by
    rw [getLastD_of_cksumValid hck]
    conv_rhs => rw [← hparts, List.dropLast_concat]
  rw [encodeCommand, hbody, hlast, hparts]

/-- What decodes encodes to the bytes it was read from, and is well-formed (R51, R54, R55, R58). -/
theorem encode_of_decode {cfg : Cfg} (hw : cfg.wf = true) {x : Context} {f : List Byte} {i : Instr}
    (h : decode cfg x f = .ok i) : encode cfg i = f ∧ i.wellFormed cfg = true := by
  cases x with
  | measurement =>
    obtain ⟨hlen, h0, h1, rfl⟩ := decodeMeasurement_eq_ok_iff.1 h
    exact ⟨measBytes_pairs hlen h0 h1, rfl⟩
  | reply c =>
    obtain ⟨hrow, hlen, h0, h1, rfl⟩ := decodeReply_eq_ok_iff.1 h
    rw [encode_replyInstr, wellFormed_replyInstr, bodyFits, beq_iff_eq]
    refine ⟨replyBytes_middle hlen h0 h1, ?_⟩
    simp
    omega
  | outbound =>
    obtain ⟨-, h0, h1, hck, c, hc, rfl⟩ := decodeOutbound_eq_ok_iff.1 h
    obtain ⟨hop, hcmd⟩ := Cfg.row_of_lookup hc
    have hlen : f.length = c.paramWidth + 4 := hcmd.symm.trans (Laws.commandLength_of_wf hw c)
    rw [paramBytes_of_wf hw hcmd.symm]
    refine ⟨?_, wellFormed_commandInstr _ _ _⟩
    have hfits : uLE (f.drop 3).dropLast < 256 ^ c.paramWidth := by
      have hwidth : (f.drop 3).dropLast.length = c.paramWidth := by simp; omega
      rw [← hwidth]
      exact uLE_lt _
    rw [encode_commandInstr cfg hfits]
    exact encodeCommand_uLE hlen hcmd h0 h1 hop hck

/-! Decoding what was encoded. -/

theorem decodeMeasurement_measBytes (cfg : Cfg) (dist strength temp : BitVec 16) (ck : Byte) :
    decodeMeasurement cfg (measBytes cfg dist strength temp ck) = .ok (.meas dist strength temp ck) := by
  rw [decodeMeasurement_eq_ok_iff]
  refine ⟨length_measBytes _ _ _ _ _, rfl, rfl, ?_⟩
  rw [pairAt_of_bytes (v := dist) rfl rfl, pairAt_of_bytes (v := strength) rfl rfl, pairAt_of_bytes (v := temp) rfl rfl]
  rfl

theorem decodeReply_replyBytes {cfg : Cfg} (hw : cfg.wf = true) {c : CmdName} {body : List Byte} (ck : Byte)
    (hb : bodyFits cfg c body = true) : decodeReply cfg c (replyBytes cfg body ck) = .ok (replyInstr c body ck) := by
  have hlen : body.length + 3 = (cfg.row c).replyLength := by simpa [bodyFits] using hb
  obtain ⟨-, hle⟩ := Machine.replyLength_range hw (c := c) (by omega)
  rw [decodeReply_eq_ok_iff, length_replyBytes]
  refine ⟨hlen, by omega, rfl, ?_, ?_⟩
  · calc (low8 (body.length + 3)).toNat = (body.length + 3) % 256 := toNat_low8 _
      _ = body.length + 3 := Nat.mod_eq_of_lt (by omega)
  · have hbody : ((replyBytes cfg body ck).drop 2).dropLast = body := List.dropLast_concat
    have hlast : (replyBytes cfg body ck).getLastD 0 = ck := List.getLastD_concat
    rw [hbody, hlast]

theorem CmdName.paramWidth_le_four (c : CmdName) : c.paramWidth ≤ 4 := by
  cases c <;> decide

/-- The frame of row `c` decodes to the parameter it carries, of the row that its opcode byte and length find. -/
theorem decodeOutbound_encodeCommand {cfg : Cfg} (hw : cfg.wf = true) {c : CmdName} {p : Nat}
    (hp : p < 256 ^ c.paramWidth) : ∃ c', (cfg.opcodesDistinct = true → c' = c) ∧
      decodeOutbound cfg (encodeCommand cfg (cfg.row c) p) = .ok (commandInstr c' p) := by
  obtain ⟨c', hfound, -, hcmd', hdistinct⟩ := cfg.lookup_row c
  have hlen := Laws.length_command hw c p
  have hcmd : (cfg.row c).commandLength = c.paramWidth + 4 := Laws.commandLength_of_wf hw c
  have hwidth := c.paramWidth_le_four
  refine ⟨c', hdistinct, decodeOutbound_eq_ok_iff.2 ⟨by omega, rfl, ?lengthByte, ?checksum, c', ?row, ?param⟩⟩
  case lengthByte =>
    calc (low8 (cfg.row c).commandLength).toNat = (cfg.row c).commandLength % 256 := toNat_low8 _
      _ = (encodeCommand cfg (cfg.row c) p).length := by omega
  case checksum => rw [encodeCommand, cksumValid_append, beq_self_eq_true]
  case row =>
    rw [hlen]
    exact hfound
  case param =>
    have hmiddle : ((encodeCommand cfg (cfg.row c) p).drop 3).dropLast = bytesLE p c.paramWidth :=
      List.dropLast_concat
    rw [paramBytes_of_wf hw (hlen.trans hcmd'.symm), hmiddle, uLE_bytesLE, Nat.mod_eq_of_lt hp]

/-- The encoding of a well-formed instruction decodes in its own context, to the instruction itself where the opcode bytes
differ or the frame is inbound (R59). -/
theorem decode_encode {cfg : Cfg} (hw : cfg.wf = true) {i : Instr} (hi : i.wellFormed cfg = true) :
    ∃ j, decode cfg i.context (encode cfg i) = .ok j ∧ (i.context ≠ .outbound ∨ cfg.opcodesDistinct = true → j = i) := by
  rcases i.cases_context with ⟨dist, strength, temp, ck, rfl⟩ | ⟨c, p, hp, rfl⟩ | ⟨c, body, ck, rfl⟩
  · exact ⟨_, decodeMeasurement_measBytes cfg dist strength temp ck, fun _ => rfl⟩
  · obtain ⟨c', hdistinct, hdec⟩ := decodeOutbound_encodeCommand hw hp
    rw [Machine.context_commandInstr, encode_commandInstr cfg hp]
    exact ⟨_, hdec, fun h => by rw [hdistinct (h.resolve_left (absurd rfl))]⟩
  · rw [wellFormed_replyInstr] at hi
    rw [Machine.context_replyInstr, encode_replyInstr]
    exact ⟨_, decodeReply_replyBytes hw ck hi, fun _ => rfl⟩

end Sys2Proof

namespace Sys2Proof.Machine

/-! The reception of a window that is no candidate, or one with a wrong checksum (R57, R67). -/

theorem length_of_isFrameCandidate {cfg : Cfg} {f : List Byte} (h : isFrameCandidate cfg f = true) : f.length = 9 := by
  simp only [isFrameCandidate, Bool.and_eq_true, beq_iff_eq] at h
  exact h.1.1

theorem length_of_isReplyCandidate {cfg : Cfg} {len : Nat} {f : List Byte} (h : isReplyCandidate cfg len f = true) :
    f.length = len := by
  simp only [isReplyCandidate, Bool.and_eq_true, beq_iff_eq] at h
  exact h.1.1

/-- A window of another length than the phase looks for changes nothing (R66, R92). -/
theorem State.receive_of_length_ne {f : List Byte} {s : State} (hf : s.phase = .fSync → f.length ≠ 9)
    (hr : s.phase = .rSync → f.length ≠ s.len) : s.receive f = s := by
  rcases s.receive_cases f with h | ⟨hp, hc, -⟩ | ⟨hp, hc, -⟩
  · exact h
  · exact absurd (length_of_isFrameCandidate hc) (hf hp)
  · exact absurd (length_of_isReplyCandidate hc) (hr hp)

theorem frameOutcome_of_wrong_checksum {cfg : Cfg} {s : List Byte} {ck : Byte} (h : ck ≠ cksum s) :
    frameOutcome cfg (s ++ [ck]) = .frameFail .checksumFailed := by
  rw [frameOutcome, cksumValid_append, if_neg (by simpa using h)]

end Sys2Proof.Machine
end

section
/-! The statements of the family 30_encoding.md. -/

namespace Sys2Proof.Machine

/-- Settles O1: a command's frame finds a row of the same bytes, its own where the opcode bytes differ; what was read
encodes to the frame again. -/
theorem decodeOfEncode : Obligations.DecodeOfEncode := by
  intro cfg i hw hi
  obtain ⟨j, hdec, heq⟩ := decode_encode hw hi
  exact ⟨fun h => by rw [hdec, heq h], j, hdec, (encode_of_decode hw hdec).1⟩

/-- Settles O2: every test of the decoder fixes the bytes that the encoder writes there. -/
theorem encodeOfDecode : Obligations.EncodeOfDecode := by
  intro cfg x f i hw h
  obtain ⟨hbytes, hwf⟩ := encode_of_decode hw h
  exact ⟨hbytes, context_of_decode h, hwf⟩

/-- Settles O3: twelve closed words, evaluated. -/
theorem decodesSpecWords : Obligations.DecodesSpecWords := by
  unfold Obligations.DecodesSpecWords
  decide

/-- Settles O4, from the laws of the checksum; the rule's examples are evaluated. -/
theorem checksumIsTruncatedSum : Obligations.ChecksumIsTruncatedSum := by
  refine ⟨fun s => toNat_low8 _, cksum_append_singleton, cksum_nil, fun s ck => ?_, by decide, by decide, by decide,
    by decide⟩
  rw [cksumValid_append, beq_iff_eq]

/-- Settles O14: an M9 frame is a candidate, and its outcome is its checksum test's. -/
theorem measWrongChecksumRejected : Obligations.MeasWrongChecksumRejected := by
  intro dist strength temp ck s hp hck
  rw [measBytes, List.dropLast_concat] at hck
  calc exec (.meas dist strength temp ck) s
      = .next (s.receive (measBytes s.cfg dist strength temp ck)) := exec_inbound (by simp [isInbound, Instr.context]) s
    _ = .next (s.finish (frameOutcome s.cfg (measBytes s.cfg dist strength temp ck))) := by
        rw [State.receive_of_fSync hp (isFrameCandidate_measBytes _ _ _ _ _)]
    _ = .next (s.finish (.frameFail .checksumFailed)) := by rw [measBytes, frameOutcome_of_wrong_checksum hck]

/-- Settles O22: only a window of the length the phase looks for can be a candidate. -/
theorem unrecognisedFramesIgnored : Obligations.UnrecognisedFramesIgnored := by
  intro i s hi
  rw [exec_inbound hi]
  refine ⟨fun hp => ?_, fun hp hlen => ?_, fun hp hlen => ?_⟩
  · rw [State.receive_of_idle hp]
  · rw [State.receive_of_length_ne (by simp [hp]) (fun _ => hlen)]
  · rw [State.receive_of_length_ne (fun _ => hlen) (by simp [hp])]

end Sys2Proof.Machine
end

section
/-! SUPPORT. What the decoder of measurement frames reads: the fields of a frame, its checksum under a change of one byte,
and the candidate test on a full window; and what one turn of the block does while an attempt runs. -/

namespace Sys2Proof

/-! Fields (R12, R40, R56). -/

/-- A pair is its two bytes set side by side, the high byte first (R12). -/
theorem u16le_eq_toNat_append (lo hi : Byte) : u16le lo hi = (hi ++ lo : BitVec 16).toNat := by
  rw [BitVec.toNat_append, ← Nat.shiftLeft_add_eq_or_of_lt lo.isLt, Nat.shiftLeft_eq, u16le]
  omega

theorem s16_u16le_eq_neg_one_iff (lo hi : Byte) : s16 (u16le lo hi) = -1 ↔ lo = 0xFF ∧ hi = 0xFF := by
  have hlo := lo.isLt
  have hhi := hi.isLt
  have hval : s16 (u16le lo hi) = -1 ↔ lo.toNat + 256 * hi.toNat = 65535 := by
    unfold s16 u16le
    split <;> omega
  rw [hval, ← BitVec.toNat_inj, ← BitVec.toNat_inj]
  change _ ↔ lo.toNat = 255 ∧ hi.toNat = 255
  omega

theorem bytesLE_two (v : BitVec 16) : bytesLE v.toNat 2 = [v.setWidth 8, (v >>> 8).setWidth 8] := by
  have hlow : low8 v.toNat = v.setWidth 8 := BitVec.eq_of_toNat_eq (by simp)
  have hhigh : low8 (v.toNat / 256) = (v >>> 8).setWidth 8 :=
    BitVec.eq_of_toNat_eq (by simp [Nat.shiftRight_eq_div_pow])
  simp only [bytesLE, hlow, hhigh]

/-! One byte changed (R75). -/

theorem byteAt_set_self {f : List Byte} {k : Nat} (h : k < f.length) (b : Byte) : byteAt (f.set k b) k = b := by
  simp [byteAt, List.getD_eq_getElem?_getD, h]

theorem byteAt_set_of_ne (f : List Byte) {k i : Nat} (h : k ≠ i) (b : Byte) : byteAt (f.set k b) i = byteAt f i := by
  simp [byteAt, List.getD_eq_getElem?_getD, List.getElem?_set_ne h]

/-- The sum changes with every one of its bytes: addition modulo 256 cancels. -/
theorem cksum_set_ne {s : List Byte} {k : Nat} {b : Byte} (hk : k < s.length) (hb : b ≠ byteAt s k) :
    cksum (s.set k b) ≠ cksum s := by
  induction s generalizing k with
  | nil => exact absurd hk (Nat.not_lt_zero k)
  | cons x s ih =>
    cases k with
    | zero =>
      rw [List.set_cons_zero, cksum_cons, cksum_cons, Ne, BitVec.add_left_inj]
      exact hb
    | succ k =>
      rw [List.set_cons_succ, cksum_cons, cksum_cons, Ne, BitVec.add_right_inj]
      exact ih (Nat.lt_of_succ_lt_succ hk) hb

theorem cksumValid_set_eq_false {f : List Byte} {k : Nat} {b : Byte} (hv : cksumValid f = true) (hk : k < f.length)
    (hb : b ≠ byteAt f k) : cksumValid (f.set k b) = false := by
  obtain ⟨s, ck, rfl⟩ : ∃ s ck, f = s ++ [ck] :=
    ⟨_, _, (List.dropLast_concat_getLast (List.ne_nil_of_length_pos (Nat.zero_lt_of_lt hk))).symm⟩
  rw [cksumValid_append, beq_iff_eq] at hv
  rcases Nat.lt_or_ge k s.length with hbody | hlast
  · have hbody' : b ≠ byteAt s k := by
      rwa [byteAt, List.getD_append _ _ _ _ hbody] at hb
    rw [List.set_append_left _ _ hbody, cksumValid_append, beq_eq_false_iff_ne, hv]
    exact (cksum_set_ne hbody hbody').symm
  · obtain rfl : k = s.length := by simp at hk; omega
    have hb' : b ≠ ck := by simpa [byteAt] using hb
    have hset : (s ++ [ck]).set s.length b = s ++ [b] := by simp
    rw [hset, cksumValid_append, beq_eq_false_iff_ne, ← hv]
    exact hb'

end Sys2Proof

namespace Sys2Proof.Machine

/-! The fields of a reading (R68 to R72). -/

theorem distOf_measBytes (cfg : Cfg) (d st tc : BitVec 16) (ck : Byte) : distOf (measBytes cfg d st tc ck) = d.toInt := by
  rw [← s16_toNat, ← u16le_bytes d]
  rfl

theorem strengthOf_measBytes (cfg : Cfg) (d st tc : BitVec 16) (ck : Byte) :
    strengthOf (measBytes cfg d st tc ck) = st.toInt := by
  rw [← s16_toNat, ← u16le_bytes st]
  rfl

theorem tempOf_measBytes (cfg : Cfg) (d st tc : BitVec 16) (ck : Byte) :
    tempOf cfg (measBytes cfg d st tc ck) = tempOfRaw cfg.tempShiftArith tc.toNat := by
  rw [← u16le_bytes tc]
  rfl

/-- A measurement frame with a right checksum gives the reading of its fields (R67, R72). -/
theorem frameOutcome_measBytes {cfg : Cfg} {d st tc : BitVec 16} {ck : Byte}
    (hck : ck = cksum (measBytes cfg d st tc 0).dropLast) :
    frameOutcome cfg (measBytes cfg d st tc ck) =
      .reading d.toInt st.toInt (tempOfRaw cfg.tempShiftArith tc.toNat) (classify d.toInt st.toInt) := by
  have hvalid : cksumValid (measBytes cfg d st tc ck) = true := by
    rw [measBytes, List.dropLast_concat] at hck
    rw [measBytes, cksumValid_append, beq_iff_eq, hck]
  rw [frameOutcome, if_pos hvalid, distOf_measBytes, strengthOf_measBytes, tempOf_measBytes]

/-- The checksum of a measurement frame, byte by byte (R51, R53). -/
theorem cksum_measBytes (cfg : Cfg) (d st tc : BitVec 16) :
    cksum (measBytes cfg d st tc 0).dropLast =
      cfg.hdr0 + cfg.hdr1 + d.setWidth 8 + (d >>> 8).setWidth 8 + st.setWidth 8 + (st >>> 8).setWidth 8 +
        tc.setWidth 8 + (tc >>> 8).setWidth 8 := by
  rw [measBytes, List.dropLast_concat]
  simp [bytesLE_two, cksum_cons, BitVec.add_assoc]

/-- The anomaly class of two 16-bit fields, read off their bits (R71). -/
theorem classify_toInt (d st : BitVec 16) : classify d.toInt st.toInt =
    if d = -1 then .weakSignal else if st = -1 then .strongSignal else if d = -4 then .floodLight else .ok := by
  have hd1 : d.toInt = -1 ↔ d = -1 := by rw [← BitVec.toInt_inj]; rfl
  have hst : st.toInt = -1 ↔ st = -1 := by rw [← BitVec.toInt_inj]; rfl
  have hd4 : d.toInt = -4 ↔ d = -4 := by rw [← BitVec.toInt_inj]; rfl
  simp only [classify, hd1, hst, hd4]

theorem tempOfRaw_toNat (arith : Bool) (tc : BitVec 16) : tempOfRaw arith tc.toNat =
    if arith then tc.toInt / 8 - 256 else ((tc.toNat / 8 : Nat) : Int) - 256 := by
  rw [tempOfRaw, s16_toNat]

/-! The candidate test (R66, R92). -/

theorem isFrameCandidate_iff {cfg : Cfg} {f : List Byte} :
    isFrameCandidate cfg f = true ↔ f.length = 9 ∧ byteAt f 0 = cfg.hdr0 ∧ byteAt f 1 = cfg.hdr1 := by
  simp only [isFrameCandidate, frameLen, Bool.and_eq_true, beq_iff_eq, and_assoc]

theorem isReplyCandidate_iff {cfg : Cfg} {len : Nat} {f : List Byte} :
    isReplyCandidate cfg len f = true ↔ f.length = len ∧ byteAt f 0 = cfg.cmdLead ∧ (byteAt f 1).toNat = len := by
  simp only [isReplyCandidate, Bool.and_eq_true, beq_iff_eq, and_assoc]

theorem State.length_window (s : State) : s.window.length = s.len := Window.length_bytes _ _

/-- In F_SYNC a window is a candidate by its first two registers (R66). -/
theorem isFrameCandidate_window {s : State} : isFrameCandidate s.cfg s.window = true ↔
    s.len = 9 ∧ s.w.reg 0 = s.cfg.hdr0 ∧ s.w.reg 1 = s.cfg.hdr1 := by
  rw [isFrameCandidate_iff, State.length_window]
  refine and_congr_right fun hlen => ?_
  rw [State.window, Window.byteAt_bytes _ (by omega), Window.byteAt_bytes _ (by omega)]

/-- In R_SYNC a window of two bytes or more is a candidate by its first two registers (R92). -/
theorem isReplyCandidate_window {s : State} (hlen : 2 ≤ s.len) : isReplyCandidate s.cfg s.len s.window = true ↔
    s.w.reg 0 = s.cfg.cmdLead ∧ (s.w.reg 1).toNat = s.len := by
  rw [isReplyCandidate_iff, State.window, Window.byteAt_bytes _ (by omega), Window.byteAt_bytes _ (by omega),
    Window.length_bytes]
  exact and_iff_right rfl

/-- A window that decodes is a candidate of its phase. -/
theorem candidate_of_decode_window {s : State} {i : Instr} (h : decode s.cfg s.context s.window = .ok i) :
    (s.phase ≠ .rSync ∧ isFrameCandidate s.cfg s.window = true) ∨
    (s.phase = .rSync ∧ 3 ≤ s.len ∧ isReplyCandidate s.cfg s.len s.window = true) := by
  unfold State.context at h
  split at h
  · rename_i hp
    obtain ⟨-, hlen, h0, h1, -⟩ := decodeReply_eq_ok_iff.1 h
    rw [State.length_window] at hlen h1
    exact .inr ⟨hp, hlen, isReplyCandidate_iff.2 ⟨s.length_window, h0, h1⟩⟩
  · rename_i hp
    obtain ⟨hlen, h0, h1, -⟩ := decodeMeasurement_eq_ok_iff.1 h
    exact .inl ⟨hp, isFrameCandidate_iff.2 ⟨hlen, h0, h1⟩⟩

theorem State.testWindow_of_decode {s : State} {i : Instr} (hn : s.n = s.len)
    (h : decode s.cfg s.context s.window = .ok i) : s.testWindow = exec i s := by
  simp [State.testWindow, hn, h]

/-- A window that is not full, or is no candidate of its phase, changes nothing (R66, R92). -/
theorem State.testWindow_of_no_candidate {s : State}
    (h : s.n = s.len → (s.phase ≠ .rSync → isFrameCandidate s.cfg s.window ≠ true) ∧
      (s.phase = .rSync → 3 ≤ s.len → isReplyCandidate s.cfg s.len s.window ≠ true)) : s.testWindow = .next s := by
  rcases s.testWindow_cases with e | ⟨i, hn, hdec, -, -⟩
  · exact e
  · obtain ⟨hframe, hreply⟩ := h hn
    rcases candidate_of_decode_window hdec with ⟨hp, hc⟩ | ⟨hp, hlen, hc⟩
    · exact absurd hc (hframe hp)
    · exact absurd hc (hreply hp hlen)

/-- A full window that is a candidate frame ends the attempt (R66, R67). -/
theorem State.testWindow_of_frame {s : State} (hp : s.phase = .fSync) (hn : s.n = s.len)
    (hc : isFrameCandidate s.cfg s.window = true) : s.testWindow = .next (s.finish (frameOutcome s.cfg s.window)) := by
  obtain ⟨hlen, h0, h1⟩ := isFrameCandidate_iff.1 hc
  have hdec : decode s.cfg s.context s.window =
      .ok (.meas (pairAt s.window 2) (pairAt s.window 4) (pairAt s.window 6) (byteAt s.window 8)) := by
    rw [State.context, hp]
    exact decodeMeasurement_eq_ok_iff.2 ⟨hlen, h0, h1, rfl⟩
  rw [State.testWindow_of_decode hn hdec, exec_inbound (inbound_of_window hdec), encode, measBytes_pairs hlen h0 h1,
    State.receive_of_fSync hp hc]

/-- A full window that is a candidate reply of the awaited row ends the attempt (R92, R93). -/
theorem State.testWindow_of_reply {s : State} (hp : s.phase = .rSync) (hn : s.n = s.len) (hlen : 3 ≤ s.len)
    (hrow : s.len = (s.cfg.row s.cur).replyLength) (hc : isReplyCandidate s.cfg s.len s.window = true) :
    s.testWindow = .next (s.finish (.cmd (replyResult s.cfg s.cur s.window))) := by
  obtain ⟨hwin, h0, h1⟩ := isReplyCandidate_iff.1 hc
  rw [← hwin] at h1
  have hdec : decode s.cfg s.context s.window =
      .ok (replyInstr s.cur (s.window.drop 2).dropLast (s.window.getLastD 0)) := by
    rw [State.context, hp]
    exact decodeReply_eq_ok_iff.2 ⟨hwin.trans hrow, hwin ▸ hlen, h0, h1, rfl⟩
  rw [State.testWindow_of_decode hn hdec, exec_inbound (inbound_of_window hdec), encode_replyInstr,
    replyBytes_middle (hwin ▸ hlen) h0 h1, State.receive_of_rSync hp hc]

theorem State.receive_of_no_frame {f : List Byte} {s : State} (hp : s.phase = .fSync)
    (hc : isFrameCandidate s.cfg f ≠ true) : s.receive f = s := by
  simp [State.receive, hp, hc]

theorem frameOutcome_of_invalid {cfg : Cfg} {f : List Byte} (h : cksumValid f = false) :
    frameOutcome cfg f = .frameFail .checksumFailed := by
  simp [frameOutcome, h]

/-! One turn of the block while an attempt runs (R63, R89, R129). -/

theorem State.blockStep_of_idle {s : State} (hp : s.phase = .idle) : s.blockStep = .next s := by
  simp [State.blockStep, hp]

theorem State.blockStep_of_fSync {s : State} (hp : s.phase = .fSync) :
    s.blockStep = s.syncStep s.cfg.frameDeadlineMs (.frameFail .headerSyncFailed) := by
  simp [State.blockStep, hp, State.fStep]

theorem State.blockStep_of_rSync {s : State} (hp : s.phase = .rSync) :
    s.blockStep = s.syncStep s.cfg.replyDeadlineMs (.cmd .timeout) := by
  simp [State.blockStep, hp, State.rStep]

theorem State.blockStep_of_frame_expired {s : State} (hp : s.phase = .fSync) (h : s.cfg.frameDeadlineMs ≤ s.elapsed) :
    s.blockStep = .next (s.finish (.frameFail .headerSyncFailed)) := by
  rw [State.blockStep_of_fSync hp]
  exact if_pos h

theorem State.blockStep_of_reply_expired {s : State} (hp : s.phase = .rSync) (h : s.cfg.replyDeadlineMs ≤ s.elapsed) :
    s.blockStep = .next (s.finish (.cmd .timeout)) := by
  rw [State.blockStep_of_rSync hp]
  exact if_pos h

/-- While an attempt runs the block's turn is one iteration before its deadline. -/
theorem State.blockStep_of_attemptRuns {s : State} (h : s.attemptRuns) :
    ∃ deadlineMs expiry, s.elapsed < deadlineMs ∧ s.blockStep = s.syncStep deadlineMs expiry := by
  rcases h with ⟨hp, hlt⟩ | ⟨hp, hlt⟩
  · exact ⟨_, _, hlt, State.blockStep_of_fSync hp⟩
  · exact ⟨_, _, hlt, State.blockStep_of_rSync hp⟩

theorem State.blockStep_of_no_byte {s : State} (h : s.attemptRuns) (hq : s.rxq = []) : s.blockStep = .next s := by
  obtain ⟨deadlineMs, expiry, hlt, e⟩ := State.blockStep_of_attemptRuns h
  rw [e, State.syncStep, if_neg (Nat.not_le.2 hlt), State.rxPop_nil hq]

theorem State.blockStep_of_byte {s : State} (h : s.attemptRuns) {b : Byte} {q : List Byte} (hq : s.rxq = b :: q) :
    s.blockStep = (s.tookByte b q).testWindow := by
  obtain ⟨deadlineMs, expiry, hlt, e⟩ := State.blockStep_of_attemptRuns h
  rw [e, State.syncStep, if_neg (Nat.not_le.2 hlt), State.rxPop_cons hq]
  rfl

/-- The block's turn differs from `blockStep` by the schedule only, of which the block reads nothing. -/
theorem step_of_blockTurn {s s0 : State} (h : blockTurn s s0) :
    ∃ rest, s0 = { s with schedule := rest } ∧ step s = s0.blockStep := by
  rcases h with ⟨hs, rfl⟩ | ⟨rest, hs, rfl⟩
  · exact ⟨s0.schedule, rfl, step_of_empty hs⟩
  · exact ⟨rest, rfl, step_of_cons hs⟩

/-- A turn of the block that finds a byte takes it and tests the window (R66, R92). -/
theorem step_of_byte {s s0 : State} (hturn : blockTurn s s0) (hrun : s.attemptRuns) {b : Byte} {q : List Byte}
    (hq : s.rxq = b :: q) : ∃ rest, s0 = { s with schedule := rest } ∧ step s = (s0.tookByte b q).testWindow := by
  obtain ⟨rest, rfl, hstep⟩ := step_of_blockTurn hturn
  exact ⟨rest, rfl, hstep.trans (State.blockStep_of_byte (s := { s with schedule := rest }) hrun hq)⟩

end Sys2Proof.Machine
end

section
/-! The statements of the family 40_frame_decoder.md about one frame and one turn. -/

namespace Sys2Proof.Machine

/-- Settles O5: at indices 2 to 8 the header stays and the sum does not; at 0 and 1 the header pair is broken. -/
theorem singleByteCorruptionDetected : Obligations.SingleByteCorruptionDetected := by
  intro s f k b hp hc hv hk hb
  obtain ⟨hlen, h0, h1⟩ := isFrameCandidate_iff.1 hc
  have hk' : k < f.length := hlen ▸ hk
  refine ⟨fun h2 => ?payload, fun h2 => ?header⟩
  case payload =>
    have hc' : isFrameCandidate s.cfg (f.set k b) = true := by
      rw [isFrameCandidate_iff, List.length_set, byteAt_set_of_ne f (by omega), byteAt_set_of_ne f (by omega)]
      exact ⟨hlen, h0, h1⟩
    rw [State.receive_of_fSync hp hc', frameOutcome_of_invalid (cksumValid_set_eq_false hv hk' hb)]
    rfl
  case header =>
    refine State.receive_of_no_frame hp fun hc' => hb ?_
    obtain ⟨-, h0', h1'⟩ := isFrameCandidate_iff.1 hc'
    have hself := byteAt_set_self hk' b
    interval_cases k
    · rw [← hself, h0', h0]
    · rw [← hself, h1', h1]

/-- Settles O13: an M9 frame is a candidate, and with the sum of its bytes as checksum its outcome is its reading. -/
theorem measGivesReading : Obligations.MeasGivesReading := by
  intro dist strength temp ck s hp hck
  rw [← cksum_measBytes] at hck
  calc exec (.meas dist strength temp ck) s
      = .next (s.receive (measBytes s.cfg dist strength temp ck)) := exec_inbound (by simp [isInbound, Instr.context]) s
    _ = .next (s.finish (frameOutcome s.cfg (measBytes s.cfg dist strength temp ck))) := by
        rw [State.receive_of_fSync hp (isFrameCandidate_measBytes _ _ _ _ _)]
    _ = _ := by
        rw [frameOutcome_measBytes hck, classify_toInt, tempOfRaw_toNat]
        rfl

/-- Settles O23: the reception of a frame changes nothing or is one `finish`. -/
theorem inboundFrame : Obligations.InboundFrame := by
  intro i s t hi h
  rw [exec_inbound hi] at h
  cases h
  rcases s.receive_cases (encode s.cfg i) with e | ⟨-, -, e⟩ | ⟨-, -, e⟩
  · rw [e]
  · rw [e]
    rfl
  · rw [e]
    rfl

/-- Settles O24: the registers by the index rule of SHIFT, the other fields by its definition, the example evaluated. -/
theorem shiftOperation : Obligations.ShiftOperation := by
  refine ⟨fun s b hpos hle => ⟨fun i hi => ?moved, ?taken, fun i hi => ?above, rfl, rfl⟩, by decide⟩
  case moved => rw [State.shift_w, Window.reg_shift _ _ _ (by omega), if_pos hi]
  case taken => rw [State.shift_w, Window.reg_shift _ _ _ (by omega), if_neg (by omega), if_pos (by omega)]
  case above => exact Window.reg_shift_of_le s.w b hi

/-- Settles O28: such a window decodes to nothing, in either phase. -/
theorem byteWithoutCandidate : Obligations.ByteWithoutCandidate := by
  intro s s0 b q hturn hrun hq h
  obtain ⟨rest, rfl, hstep⟩ := step_of_byte hturn hrun hq
  rw [hstep]
  refine State.testWindow_of_no_candidate fun hfull => ⟨fun hp hc => ?frame, fun hp hlen hc => ?reply⟩
  case frame =>
    rcases h with hn | ⟨-, hmark⟩ | ⟨hp', -⟩
    · exact hn hfull
    · exact hmark (isFrameCandidate_window.1 hc).2
    · exact hp hp'
  case reply =>
    rcases h with hn | ⟨hp', -⟩ | ⟨-, hmark⟩
    · exact hn hfull
    · exact absurd (hp'.symm.trans hp) (by decide)
    · exact hmark ((isReplyCandidate_window (Nat.le_of_succ_le hlen)).1 hc)

/-- Settles O29: the invariant gives the window the length that the phase looks for, so its markers make it a candidate. -/
theorem candidateEndsAttempt : Obligations.CandidateEndsAttempt := by
  intro s s0 b q hinv hturn hrun hq hfull
  obtain ⟨rest, rfl, hstep⟩ := step_of_byte hturn hrun hq
  rw [hstep]
  refine ⟨fun hp h0 h1 => ?frame, fun hp h0 h1 => ?reply⟩
  case frame =>
    have hlen := hinv.frameLength hp
    rw [← hlen]
    exact State.testWindow_of_frame hp hfull (isFrameCandidate_window.2 ⟨hlen, h0, h1⟩)
  case reply =>
    have hlen := hinv.lenRange.1
    have hc := isReplyCandidate_window (s := State.tookByte b q { s with schedule := rest }) (Nat.le_of_succ_le hlen)
    exact State.testWindow_of_reply hp hfull hlen (hinv.replyLength hp) (hc.2 ⟨h0, h1⟩)

/-- Settles O15, from the laws of `s16`; the corner cases are evaluated. -/
theorem distanceField : Obligations.DistanceField := by
  refine ⟨fun f => ⟨rfl, s16_range (u16le_lt _ _)⟩, fun cfg f hv _ h1 h4 hs => ?passed, fun lo hi x y => ?bits,
    by decide, by decide, by decide, by decide, by decide⟩
  case passed => rw [frameOutcome, if_pos hv, classify, if_neg h1, if_neg hs, if_neg h4]
  case bits =>
    calc distOf [x, y, lo, hi] = s16 (u16le lo hi) := rfl
      _ = (hi ++ lo : BitVec 16).toInt := by rw [u16le_eq_toNat_append, s16_toNat]

/-- Settles O16, from the laws of `s16`. -/
theorem strengthField : Obligations.StrengthField :=
  ⟨fun _ => ⟨rfl, s16_range (u16le_lt _ _)⟩, fun _ => s16_u16le_eq_neg_one_iff _ _, by decide⟩

/-- Settles O17: the two shifts differ only where the raw code has its top bit set. -/
theorem temperatureDecode : Obligations.TemperatureDecode := by
  refine ⟨fun raw hraw => ?_, by decide, by decide, by decide, by decide, by decide⟩
  have hlogical : tempOfRaw false raw = (raw : Int) / 8 - 256 := rfl
  have harith : tempOfRaw true raw = s16 raw / 8 - 256 := rfl
  have hsigned : s16 raw = if raw < 32768 then (raw : Int) else (raw : Int) - 65536 := rfl
  refine ⟨hlogical, harith, ?_⟩
  rw [hlogical, harith, hsigned]
  split <;> omega

/-- Settles O18: the tests are made in the order of D7, so each class excludes those before it. -/
theorem anomalyClasses : Obligations.AnomalyClasses := by
  intro d s
  unfold classify
  split_ifs with hd hs hflood <;> simp [*]

/-- Settles O25: a host that is free to act starts the attempt. -/
theorem decodeStarts : Obligations.DecodeStarts := by
  intro s rest hs hp hd hw
  rw [step_of_cons hs]
  calc State.serialised State.decodeStart { s with schedule := rest }
      = State.decodeStart { s with schedule := rest } :=
        State.serialised_of_free (s := { s with schedule := rest }) hp hd
    _ = .next (State.beginAttempt .fSync 9 { s with schedule := rest }) :=
        State.start_of_idle (s := { s with schedule := rest }) hp hw

/-- Settles O27: the byte taken fills the window, and the test runs what it decodes to. -/
theorem stepRunsWindowFrame : Obligations.StepRunsWindowFrame := by
  intro s s0 b q i hturn hrun hq hfull hdec
  obtain ⟨rest, rfl, hstep⟩ := step_of_byte hturn hrun hq
  rw [hstep]
  exact State.testWindow_of_decode hfull hdec

/-- Settles O30: the deadline is the first test of an iteration. -/
theorem deadlineEndsAttempt : Obligations.DeadlineEndsAttempt := by
  intro s s0 hturn
  obtain ⟨rest, rfl, hstep⟩ := step_of_blockTurn hturn
  rw [hstep]
  exact ⟨fun hp hlate => State.blockStep_of_frame_expired hp hlate,
    fun hp hlate => State.blockStep_of_reply_expired hp hlate⟩

/-- Settles O31: with no byte to take, or in IDLE, the turn answers the state it met. -/
theorem idleWaitStutters : Obligations.IdleWaitStutters := by
  intro s s0 hturn
  obtain ⟨rest, rfl, hstep⟩ := step_of_blockTurn hturn
  rw [hstep]
  exact ⟨fun hrun hq => State.blockStep_of_no_byte hrun hq, fun hp => State.blockStep_of_idle hp⟩

end Sys2Proof.Machine
end

section
/-! SUPPORT. A frame attempt along its stream: what the window holds after `k` bytes, and the invariant of the turns in which the
host waits for the attempt to end (R66, R67, R74). -/

namespace Sys2Proof

theorem byteAt_take_drop (l : List Byte) (i : Nat) {n k : Nat} (h : k < n) :
    byteAt ((l.drop i).take n) k = byteAt l (i + k) := by
  simp [byteAt, List.getD_eq_getElem?_getD, h]

/-- Nine bytes of a list move on by one: the oldest out, the next of the list in (R61). -/
theorem tail_append_of_drop {l r : List Byte} {k : Nat} {b : Byte} (h : l.drop (k + 9) = b :: r) :
    ((l.drop k).take 9).tail ++ [b] = (l.drop (k + 1)).take 9 := by
  have hnext : (l.drop (k + 1))[8]? = some b := by
    rw [List.getElem?_drop, show k + 1 + 8 = k + 9 by omega, ← List.head?_drop, h]
    rfl
  calc ((l.drop k).take 9).tail ++ [b] = (l.drop (k + 1)).take 8 ++ [b] := by
        rw [← List.drop_one, List.drop_take, List.drop_drop]
    _ = (l.drop (k + 1)).take 9 := by rw [List.take_add_one (i := 8), hnext]; rfl

theorem drop_succ_of_drop {l r : List Byte} {k : Nat} {b : Byte} (h : l.drop k = b :: r) : l.drop (k + 1) = r := by
  rw [← List.drop_drop, h, List.drop_one, List.tail_cons]

end Sys2Proof

namespace Sys2Proof.Machine

/-- The first header pair of a stream stands at `j`, with the nine bytes of a candidate from there on (R66, R74). -/
structure FirstHeaderAt (cfg : Cfg) (stream : List Byte) (j : Nat) : Prop where
  inStream : j + 9 ≤ stream.length
  hdr0 : byteAt stream j = cfg.hdr0
  hdr1 : byteAt stream (j + 1) = cfg.hdr1
  noneBefore : ∀ i, i < j → ¬(byteAt stream i = cfg.hdr0 ∧ byteAt stream (i + 1) = cfg.hdr1)

/-! The turns still to come. -/

/-- The bytes still to be taken: those in `RXQ`, then those that the schedule delivers. -/
def State.pending (s : State) : List Byte := s.rxq ++ deliveredBytes s.schedule

theorem State.pending_of_empty {s : State} (h : s.schedule = []) : s.pending = s.rxq := by
  rw [State.pending, h, deliveredBytes, List.append_nil]

/-- After `k` bytes the schedule still has enough turns of the block at its end to make it `m`. -/
def Due (m k : Nat) (turns : List Turn) : Prop := ∃ l, List.replicate l Turn.block <:+ turns ∧ m ≤ k + l

theorem blocks_suffix_cons {l : Nat} {u : Turn} {rest : List Turn} (h : List.replicate l Turn.block <:+ u :: rest) :
    List.replicate l Turn.block <:+ rest ∨ u = .block ∧ ∃ l', l = l' + 1 ∧ rest = List.replicate l' .block := by
  rcases List.suffix_cons_iff.1 h with heq | hsuf
  · cases l with
    | zero => cases heq
    | succ l =>
      obtain ⟨rfl, rfl⟩ := List.cons.inj heq
      exact .inr ⟨rfl, l, rfl, rfl⟩
  · exact .inl hsuf

/-- A byte taken makes up for the turn that took it. -/
theorem Due.tail_of_byte {m k : Nat} {u : Turn} {rest : List Turn} (h : Due m k (u :: rest)) : Due m (k + 1) rest := by
  obtain ⟨l, hsuf, hle⟩ := h
  rcases blocks_suffix_cons hsuf with hsuf' | ⟨-, l', rfl, rfl⟩
  · exact ⟨l, hsuf', by omega⟩
  · exact ⟨l', List.suffix_rfl, by omega⟩

/-- A turn that takes no byte is none of the turns at the end, if the block's turn waits only for bytes to come. -/
theorem Due.tail_of_wait {m k : Nat} {u : Turn} {rest : List Turn} (h : Due m k (u :: rest))
    (hu : u = .block → deliveredBytes rest ≠ []) : Due m k rest := by
  obtain ⟨l, hsuf, hle⟩ := h
  rcases blocks_suffix_cons hsuf with hsuf' | ⟨hb, l', -, rfl⟩
  · exact ⟨l, hsuf', hle⟩
  · exact absurd (deliveredBytes_blocks l') (hu hb)

theorem Due.le_of_nil {m k : Nat} (h : Due m k []) : m ≤ k := by
  obtain ⟨l, hsuf, hle⟩ := h
  have hl : l = 0 := by simpa using List.suffix_nil.1 hsuf
  omega

/-! The invariant. -/

/-- An attempt just started, before turns in which the host waits and the deadline does not expire. -/
structure State.JustStarted (s : State) : Prop where
  unbounded : s.cfg.rxqDepth = none
  phase : s.phase = .fSync
  n : s.n = 0
  len : s.len = 9
  out : s.out = .none
  waits : ∀ u ∈ s.schedule, u.whileWaiting = true
  inTime : s.elapsed + elapsedOver s.schedule < s.cfg.frameDeadlineMs

/-- The attempt that started in `s₀` runs, `k` bytes of its stream taken: the window holds the last nine bytes of what it held
at the start and the stream. -/
structure Scanning (s₀ : State) (k : Nat) (s : State) : Prop where
  phase : s.phase = .fSync
  out : s.out = .none
  len : s.len = 9
  n : s.n = min k 9
  window : s.window = ((s₀.window ++ s₀.pending).drop k).take 9
  pending : s.pending = s₀.pending.drop k
  inTime : s.elapsed + elapsedOver s.schedule < s.cfg.frameDeadlineMs

/-- The attempt that started in `s₀` has ended with the outcome of the nine bytes at `j` of its stream. -/
structure Ended (s₀ : State) (j : Nat) (s : State) : Prop where
  phase : s.phase = .idle
  out : s.out = frameOutcome s₀.cfg ((s₀.pending.drop j).take 9)
  pending : s.pending = s₀.pending.drop (j + 9)

/-- The invariant of the turns after `s₀`: no candidate met yet, with turns left to take `m` bytes, or the attempt ended. -/
structure Attempt (s₀ : State) (j m : Nat) (s : State) : Prop where
  cfg : s.cfg = s₀.cfg
  txq : s.txq = s₀.txq
  waits : ∀ u ∈ s.schedule, u.whileWaiting = true
  progress : (∃ k, k < j + 9 ∧ Scanning s₀ k s ∧ Due m k s.schedule) ∨ Ended s₀ j s

theorem State.JustStarted.attempt {s : State} (h : s.JustStarted) (j : Nat) {m : Nat}
    (hm : List.replicate m Turn.block <:+ s.schedule) : Attempt s j m s where
  cfg := rfl
  txq := rfl
  waits := h.waits
  progress := by
    have hscan : Scanning s 0 s :=
      { h with
        n := h.n
        window := by
          have hlen : s.window.length = 9 := s.length_window.trans h.len
          rw [List.drop_zero, List.take_append_of_le_length hlen.ge, List.take_of_length_le hlen.le]
        pending := rfl }
    exact .inl ⟨0, by omega, hscan, m, hm, by omega⟩

/-- With `i + 9` bytes taken nothing of the window's first contents is left. -/
theorem drop_window_append {s₀ : State} (hlen : s₀.len = 9) (i : Nat) :
    (s₀.window ++ s₀.pending).drop (i + 9) = s₀.pending.drop i := by
  rw [Nat.add_comm, ← hlen, ← s₀.length_window, List.drop_length_add_append]

theorem Scanning.attemptRuns {s₀ s : State} {k : Nat} (h : Scanning s₀ k s) : s.attemptRuns :=
  .inl ⟨h.phase, (Nat.le_add_right _ _).trans_lt h.inTime⟩

/-- A byte taken moves the window on by one along the stream. -/
theorem Scanning.tookByte {s₀ s : State} {k : Nat} (h : Scanning s₀ k s) (hlen : s₀.len = 9) {b : Byte} {q : List Byte}
    (hq : s.rxq = b :: q) : Scanning s₀ (k + 1) (s.tookByte b q) := by
  have hrest : s₀.pending.drop k = b :: (q ++ deliveredBytes s.schedule) := by
    rw [← h.pending, State.pending, hq]
    rfl
  have hn : min (s.n + 1) s.len = min (k + 1) 9 := by rw [h.n, h.len]; omega
  have hpos : 0 < s.len := by rw [h.len]; decide
  have hwindow : (s.tookByte b q).window = ((s₀.window ++ s₀.pending).drop (k + 1)).take 9 :=
    calc (s.tookByte b q).window = s.window.tail ++ [b] := Window.bytes_shift s.w b hpos h.len.le
      _ = _ := by rw [h.window, tail_append_of_drop ((drop_window_append hlen k).trans hrest)]
  exact { h with n := hn, window := hwindow, pending := (drop_succ_of_drop hrest).symm }

/-- Nine bytes of the stream are a candidate only with the header pair in front (R66). -/
theorem header_of_isFrameCandidate {cfg : Cfg} {stream : List Byte} {i : Nat}
    (h : isFrameCandidate cfg ((stream.drop i).take 9) = true) :
    byteAt stream i = cfg.hdr0 ∧ byteAt stream (i + 1) = cfg.hdr1 := by
  obtain ⟨-, h0, h1⟩ := isFrameCandidate_iff.1 h
  rw [byteAt_take_drop _ _ (by decide)] at h0 h1
  exact ⟨h0, h1⟩

theorem FirstHeaderAt.isFrameCandidate {cfg : Cfg} {stream : List Byte} {j : Nat} (h : FirstHeaderAt cfg stream j) :
    isFrameCandidate cfg ((stream.drop j).take 9) = true := by
  have hlen := h.inStream
  rw [isFrameCandidate_iff, byteAt_take_drop _ _ (by decide), byteAt_take_drop _ _ (by decide)]
  exact ⟨by simp; omega, h.hdr0, h.hdr1⟩

/-- Before the first candidate is complete, the window is not full or has no header pair in front (R66). -/
theorem Scanning.testWindow_before {s₀ s : State} {j k : Nat} (h : Scanning s₀ k s)
    (hfirst : FirstHeaderAt s₀.cfg s₀.pending j) (hlen : s₀.len = 9) (hcfg : s.cfg = s₀.cfg) (hk : k < j + 9) :
    s.testWindow = .next s := by
  have hnotReply : s.phase ≠ .rSync := by simp [h.phase]
  refine State.testWindow_of_no_candidate fun hfull => ⟨fun _ hc => ?_, fun hp => absurd hp hnotReply⟩
  have hfull' : min k 9 = 9 := h.n.symm.trans (hfull.trans h.len)
  obtain ⟨i, rfl⟩ : ∃ i, k = i + 9 := ⟨k - 9, by omega⟩
  rw [hcfg, h.window, drop_window_append hlen] at hc
  exact hfirst.noneBefore i (by omega) (header_of_isFrameCandidate hc)

/-- With its last byte the first candidate is the window, and ends the attempt (R66, R67). -/
theorem Scanning.testWindow_at {s₀ s : State} {j : Nat} (h : Scanning s₀ (j + 9) s)
    (hfirst : FirstHeaderAt s₀.cfg s₀.pending j) (hlen : s₀.len = 9) (hcfg : s.cfg = s₀.cfg) :
    s.testWindow = .next (s.finish (frameOutcome s₀.cfg ((s₀.pending.drop j).take 9))) := by
  have hn : s.n = s.len := by rw [h.n, h.len]; omega
  have hwindow : s.window = (s₀.pending.drop j).take 9 := by rw [h.window, drop_window_append hlen]
  have hc : isFrameCandidate s.cfg s.window = true := by
    rw [hcfg, hwindow]
    exact hfirst.isFrameCandidate
  rw [State.testWindow_of_frame h.phase hn hc, hcfg, hwindow]

/-! One turn. -/

/-- From `s` to `t` the block has waited: bytes came or time passed, the stream still to come is the same, and no deadline has
come nearer than the schedule said. -/
def Waited (s t : State) : Prop :=
  (∃ q now x, t = { s with rxq := q, now := now, schedule := x }) ∧ t.pending = s.pending ∧
    t.elapsed + elapsedOver t.schedule ≤ s.elapsed + elapsedOver s.schedule

section
variable {s₀ s t : State} {j m k : Nat} {rest : List Turn}

theorem Waited.lineIn {b : Byte} (hs : s.schedule = .lineIn b :: rest) :
    Waited s { s with schedule := rest, rxq := s.rxq ++ [b] } := by
  refine ⟨⟨_, _, _, rfl⟩, ?_, ?_⟩
  · rw [State.pending, State.pending, hs, List.append_assoc]
    rfl
  · rw [hs]
    exact le_rfl

theorem Waited.clock {ms : Nat} (hs : s.schedule = .clock ms :: rest) :
    Waited s (State.clock ms { s with schedule := rest }) := by
  refine ⟨⟨_, _, _, rfl⟩, ?_, ?_⟩
  · rw [State.pending, State.pending, hs]
    rfl
  · rw [hs, elapsedOver, ← Nat.add_assoc]
    exact Nat.add_le_add_right (s.elapsed_clock_le ms) _

theorem Waited.block (hs : s.schedule = .block :: rest) : Waited s { s with schedule := rest } := by
  refine ⟨⟨_, _, _, rfl⟩, ?_, ?_⟩
  · rw [State.pending, State.pending, hs]
    rfl
  · rw [hs]
    exact le_rfl

theorem Scanning.of_waited (h : Scanning s₀ k s) (hw : Waited s t) : Scanning s₀ k t := by
  obtain ⟨⟨q, now, x, rfl⟩, hpending, htime⟩ := hw
  exact { h with pending := hpending.trans h.pending, inTime := htime.trans_lt h.inTime }

theorem Ended.of_waited (h : Ended s₀ j s) (hw : Waited s t) : Ended s₀ j t := by
  obtain ⟨⟨q, now, x, rfl⟩, hpending, -⟩ := hw
  exact { h with pending := hpending.trans h.pending }

/-- A turn in which the block waits keeps the invariant; a turn of its own it waits through only while bytes are to come. -/
theorem Attempt.of_waited (h : Attempt s₀ j m s) {u : Turn} (hs : s.schedule = u :: rest) (hw : Waited s t)
    (ht : t.schedule = rest) (hu : u = .block → s.phase = .fSync → deliveredBytes rest ≠ []) : Attempt s₀ j m t where
  cfg := by
    obtain ⟨⟨q, now, x, rfl⟩, -⟩ := hw
    exact h.cfg
  txq := by
    obtain ⟨⟨q, now, x, rfl⟩, -⟩ := hw
    exact h.txq
  waits := fun v hv => h.waits v (hs ▸ List.mem_cons_of_mem u (ht ▸ hv))
  progress := by
    rcases h.progress with ⟨k, hk, hscan, hdue⟩ | hended
    · rw [hs] at hdue
      exact .inl ⟨k, hk, hscan.of_waited hw, ht ▸ hdue.tail_of_wait fun hb => hu hb hscan.phase⟩
    · exact .inr (hended.of_waited hw)

/-- A byte taken leaves the attempt running, one byte further, or is the first candidate's last byte and ends it. -/
theorem Scanning.blockStep_of_byte (h : Scanning s₀ k s) (hfirst : FirstHeaderAt s₀.cfg s₀.pending j) (hlen : s₀.len = 9)
    (hcfg : s.cfg = s₀.cfg) (hk : k < j + 9) {b : Byte} {q : List Byte} (hq : s.rxq = b :: q) :
    ∃ t, s.blockStep = .next t ∧ t.cfg = s.cfg ∧ t.txq = s.txq ∧ t.schedule = s.schedule ∧
      ((k + 1 < j + 9 ∧ Scanning s₀ (k + 1) t) ∨ Ended s₀ j t) := by
  have hbyte := State.blockStep_of_byte h.attemptRuns hq
  have hnext := h.tookByte hlen hq
  rcases Nat.lt_or_ge (k + 1) (j + 9) with hearly | hlast
  · exact ⟨_, hbyte.trans (hnext.testWindow_before hfirst hlen hcfg hearly), rfl, rfl, rfl, .inl ⟨hearly, hnext⟩⟩
  · obtain rfl : k = j + 8 := by omega
    exact ⟨_, hbyte.trans (hnext.testWindow_at hfirst hlen hcfg), rfl, rfl, rfl,
      .inr { phase := rfl, out := rfl, pending := hnext.pending }⟩

/-- The block's turn keeps the invariant: it takes a byte, or waits for one that is to come. -/
theorem Attempt.blockTurn (h : Attempt s₀ j m s) (hfirst : FirstHeaderAt s₀.cfg s₀.pending j) (hlen : s₀.len = 9)
    (hs : s.schedule = .block :: rest) :
    ∃ t, State.blockStep { s with schedule := rest } = .next t ∧ t.schedule = rest ∧ Attempt s₀ j m t := by
  have hw := Waited.block hs
  rcases h.progress with ⟨k, hk, hscan, hdue⟩ | hended
  · have hscan' := hscan.of_waited hw
    rcases eq_or_ne s.rxq [] with hq | hq
    · have hmore : deliveredBytes rest ≠ [] := by
        have hpending : deliveredBytes rest = s₀.pending.drop k := by
          rw [← hscan'.pending, State.pending, hq, List.nil_append]
        have hin := hfirst.inStream
        rw [hpending, Ne, List.drop_eq_nil_iff]
        omega
      exact ⟨_, State.blockStep_of_no_byte hscan'.attemptRuns hq, rfl, h.of_waited hs hw rfl fun _ _ => hmore⟩
    · obtain ⟨b, q, hq⟩ := List.exists_cons_of_ne_nil hq
      obtain ⟨t, hstep, hcfg, htxq, hsched, hprog⟩ := hscan'.blockStep_of_byte hfirst hlen h.cfg hk hq
      replace hsched : t.schedule = rest := hsched
      refine ⟨t, hstep, hsched, hcfg.trans h.cfg, htxq.trans h.txq, ?_, hprog.imp_left fun ⟨hk', hnext⟩ => ?_⟩
      · exact fun u hu => h.waits u (hs ▸ List.mem_cons_of_mem _ (hsched ▸ hu))
      · rw [hs] at hdue
        exact ⟨k + 1, hk', hnext, hsched ▸ hdue.tail_of_byte⟩
  · have hnotSync : s.phase ≠ .fSync := by simp [hended.phase]
    exact ⟨_, State.blockStep_of_idle hended.phase, rfl, h.of_waited hs hw rfl fun _ hp => absurd hp hnotSync⟩

/-- Every turn in which the host waits keeps the invariant. -/
theorem Attempt.turn (h : Attempt s₀ j m s) (hfirst : FirstHeaderAt s₀.cfg s₀.pending j) (hlen : s₀.len = 9)
    (hdepth : s₀.cfg.rxqDepth = none) {u : Turn} (hs : s.schedule = u :: rest) :
    ∃ t, step s = .next t ∧ t.schedule = rest ∧ Attempt s₀ j m t := by
  have hu : u.whileWaiting = true := h.waits u (hs ▸ List.mem_cons_self)
  rw [step_of_cons hs]
  cases u with
  | block => exact h.blockTurn hfirst hlen hs
  | lineIn b =>
    have hroom : State.cfg { s with schedule := rest } = s₀.cfg := h.cfg
    exact ⟨_, congrArg Host.Outcome.next (State.lineIn_unbounded b (hroom ▸ hdepth)), rfl,
      h.of_waited hs (Waited.lineIn hs) rfl nofun⟩
  | clock ms => exact ⟨_, rfl, rfl, h.of_waited hs (Waited.clock hs) rfl nofun⟩
  | host r => cases hu
  | reset => cases hu

end

/-! The start of an attempt, and a stream with a frame in it. -/

/-- DECODE starts an attempt with the whole time to its deadline (R62, R130). -/
theorem State.justStarted_of_decode {s : State} (hdepth : s.cfg.rxqDepth = none)
    (hwaits : ∀ u ∈ s.schedule, u.whileWaiting = true) (htime : elapsedOver s.schedule < s.cfg.frameDeadlineMs) :
    (s.beginAttempt .fSync 9).JustStarted where
  unbounded := hdepth
  phase := rfl
  n := rfl
  len := rfl
  out := rfl
  waits := hwaits
  inTime := by
    have helapsed : (s.beginAttempt .fSync 9).elapsed = 0 := timeSince_self _ _
    rw [helapsed, Nat.zero_add]
    exact htime

theorem take_drop_middle {p f q : List Byte} (hf : f.length = 9) : ((p ++ f ++ q).drop p.length).take 9 = f := by
  rw [List.append_assoc, List.drop_left, ← hf, List.take_left]

theorem drop_middle {p f q : List Byte} (hf : f.length = 9) : (p ++ f ++ q).drop (p.length + 9) = q := by
  rw [← hf, ← List.length_append, List.drop_left]

/-- A frame behind noise that holds no header pair, up to the frame's first byte, is the stream's first candidate (R74 (a)). -/
theorem firstHeaderAt_frame {cfg : Cfg} {p q : List Byte} {d st tc : BitVec 16} {ck : Byte} {stream : List Byte}
    (hstream : stream = p ++ measBytes cfg d st tc ck ++ q)
    (hnone : ∀ i, i < p.length → ¬(byteAt stream i = cfg.hdr0 ∧ byteAt stream (i + 1) = cfg.hdr1)) :
    FirstHeaderAt cfg stream p.length := by
  have hc := isFrameCandidate_measBytes cfg d st tc ck
  rw [← take_drop_middle (p := p) (q := q) (length_measBytes cfg d st tc ck), ← hstream] at hc
  obtain ⟨h0, h1⟩ := header_of_isFrameCandidate hc
  refine ⟨?_, h0, h1, hnone⟩
  rw [hstream, List.length_append, List.length_append, length_measBytes, frameLen]
  omega

/-! The run. -/

/-- What holds at the start and is kept by every listed turn holds when the schedule is through. -/
theorem run_schedule {P : State → Prop}
    (hstep : ∀ s u rest, s.schedule = u :: rest → P s → ∃ t, step s = .next t ∧ t.schedule = rest ∧ P t) :
    ∀ (turns : List Turn) (s : State), s.schedule = turns → P s →
      ∃ t, Host.Core.run core turns.length s = .next t ∧ t.schedule = [] ∧ P t := by
  intro turns
  induction turns with
  | nil => exact fun s hs hP => ⟨s, rfl, hs, hP⟩
  | cons u rest ih =>
    intro s hs hP
    obtain ⟨s', hnext, hs', hP'⟩ := hstep s u rest hs hP
    obtain ⟨t, hrun, ht, hPt⟩ := ih s' hs' hP'
    exact ⟨t, (run_succ hnext).trans hrun, ht, hPt⟩

/-- The first candidate decides: after the whole schedule the attempt has ended with its outcome, or it still runs because fewer
than `j + 9` turns of the block stood at the schedule's end (R66, R67, R74). -/
theorem State.JustStarted.run_decides {s : State} (h : s.JustStarted) {j m : Nat}
    (hfirst : FirstHeaderAt s.cfg s.pending j) (hm : List.replicate m Turn.block <:+ s.schedule) :
    ∃ t, Host.Core.run core s.schedule.length s = .next t ∧ t.txq = s.txq ∧
      ((t.phase = .fSync ∧ t.out = .none ∧ m < j + 9) ∨
        (t.phase = .idle ∧ t.out = frameOutcome s.cfg ((s.pending.drop j).take 9) ∧ t.rxq = s.pending.drop (j + 9))) := by
  obtain ⟨t, hrun, ht, hattempt⟩ := run_schedule (P := Attempt s j m)
    (fun _ _ _ hs hP => hP.turn hfirst h.len h.unbounded hs) s.schedule s rfl (h.attempt j hm)
  refine ⟨t, hrun, hattempt.txq, ?_⟩
  rcases hattempt.progress with ⟨k, hk, hscan, hdue⟩ | hended
  · rw [ht] at hdue
    exact .inl ⟨hscan.phase, hscan.out, hdue.le_of_nil.trans_lt hk⟩
  · exact .inr ⟨hended.phase, hended.out, (State.pending_of_empty ht).symm.trans hended.pending⟩

/-- Enough turns of the block at the schedule's end read the frame behind the noise (R74 (a)). -/
theorem State.JustStarted.run_reads_frame {s : State} (h : s.JustStarted) {p q stream : List Byte} {d st tc : BitVec 16}
    {ck : Byte} (hpending : s.pending = stream) (hstream : stream = p ++ measBytes s.cfg d st tc ck ++ q)
    (hnone : ∀ i, i < p.length → ¬(byteAt stream i = s.cfg.hdr0 ∧ byteAt stream (i + 1) = s.cfg.hdr1))
    (hck : ck = cksum (measBytes s.cfg d st tc 0).dropLast)
    (hblocks : List.replicate (p.length + 9) Turn.block <:+ s.schedule) :
    ∃ t, Host.Core.run core s.schedule.length s = .next t ∧
      t.out = .reading d.toInt st.toInt (tempOfRaw s.cfg.tempShiftArith tc.toNat) (classify d.toInt st.toInt) ∧
      t.phase = .idle ∧ t.rxq = q ∧ t.txq = s.txq := by
  have hfirst : FirstHeaderAt s.cfg s.pending p.length := hpending ▸ firstHeaderAt_frame hstream hnone
  obtain ⟨t, hrun, htxq, hend⟩ := h.run_decides hfirst hblocks
  obtain ⟨hph, ho, hq⟩ := hend.resolve_left fun ⟨_, _, hlt⟩ => lt_irrefl _ hlt
  have hframe := length_measBytes s.cfg d st tc ck
  rw [hpending, hstream, take_drop_middle hframe, frameOutcome_measBytes hck] at ho
  rw [hpending, hstream, drop_middle hframe] at hq
  exact ⟨t, hrun, ho, hph, hq, htxq⟩

end Sys2Proof.Machine
end

section
/-! The statements of the family 40_frame_decoder.md about a whole attempt. -/

namespace Sys2Proof.Machine

/-- Settles O43, by the invariant `Attempt` along the schedule; the run is the same whatever its end is known to be. -/
theorem firstCandidateDecides : Obligations.FirstCandidateDecides := by
  intro s turns j hs hwaits hdepth hp hn hlen hout htime stream hin h0 h1 hnone
  subst hs
  have hstart : s.JustStarted := ⟨hdepth, hp, hn, hlen, hout, hwaits, htime⟩
  have hfirst : FirstHeaderAt s.cfg s.pending j := ⟨hin, h0, h1, hnone⟩
  obtain ⟨t, hrun, htxq, hend⟩ := hstart.run_decides hfirst (m := 0) List.nil_suffix
  refine ⟨t, hrun, htxq, hend.imp_left fun ⟨hph, ho, _⟩ => ⟨hph, ho⟩, fun before hbefore => ?_⟩
  obtain ⟨t', hrun', -, hend'⟩ := hstart.run_decides hfirst ⟨before, hbefore.symm⟩
  obtain rfl : t' = t := Host.Outcome.next.inj (hrun'.symm.trans hrun)
  exact hend'.resolve_left fun ⟨_, _, hlt⟩ => lt_irrefl _ hlt

/-- Settles O44: the state DECODE leaves is an attempt just started, whose schedule ends in the block's turns. -/
theorem noiseThenFrameIsRead : Obligations.NoiseThenFrameIsRead := by
  intro s turns p q d st tc ck hs hwaits hdepth hp hd hw htime hck stream hstream hnone
  have hdecode := decodeStarts s _ hs hp hd hw
  have hpending : s.rxq ++ deliveredBytes (turns ++ List.replicate (p.length + 9) .block) = stream := by
    rw [deliveredBytes_append, deliveredBytes_blocks, List.append_nil]
  have hwaits' : ∀ u ∈ turns ++ List.replicate (p.length + 9) .block, u.whileWaiting = true := fun u hu =>
    (List.mem_append.1 hu).elim (hwaits u) fun hb => List.eq_of_mem_replicate hb ▸ rfl
  have htime' : elapsedOver (turns ++ List.replicate (p.length + 9) .block) < s.cfg.frameDeadlineMs := by
    rwa [elapsedOver_append, elapsedOver_blocks]
  have hstart := State.justStarted_of_decode
    (s := { s with schedule := turns ++ List.replicate (p.length + 9) .block }) hdepth hwaits' htime'
  obtain ⟨t, hrun, hread⟩ := hstart.run_reads_frame hpending hstream hnone hck (List.suffix_append turns _)
  have hcount : turns.length + p.length + 10 = (turns ++ List.replicate (p.length + 9) Turn.block).length + 1 := by
    rw [List.length_append, List.length_replicate]
    omega
  exact ⟨t, hcount ▸ (run_succ hdecode).trans hrun, hread⟩

end Sys2Proof.Machine
end

section
/-! SUPPORT. The bytes of a command's frame, what a command does from IDLE, and what a step can do to `TXQ`. -/

namespace Sys2Proof

/-! The bytes of a command's frame (R54, R56, R76). -/

/-- Byte `k` of a number held in a bit vector, cut out of the vector by a shift (R12). -/
theorem low8_toNat_div {n : Nat} (v : BitVec n) (k : Nat) : low8 (v.toNat / 2 ^ k) = (v >>> k).setWidth 8 := by
  apply BitVec.eq_of_toNat_eq
  simp [Nat.shiftRight_eq_div_pow]

theorem bytesLE_four (v : BitVec 32) : bytesLE v.toNat 4 =
    [v.setWidth 8, (v >>> 8).setWidth 8, (v >>> 16).setWidth 8, (v >>> 24).setWidth 8] := by
  have hlow : low8 v.toNat = v.setWidth 8 := BitVec.eq_of_toNat_eq (by simp)
  simp only [bytesLE, Nat.div_div_eq_div_mul, hlow, ← low8_toNat_div, Nat.reducePow, Nat.reduceMul]

/-- Under a table that R30 admits the length byte is fixed by the parameter's width (D10). -/
theorem commandBody_of_wf {cfg : Cfg} (hw : cfg.wf = true) (c : CmdName) (p : Nat) :
    commandBody cfg (cfg.row c) p =
      [cfg.cmdLead, low8 (c.paramWidth + 4), (cfg.row c).opcodeByte] ++ bytesLE p c.paramWidth := by
  rw [commandBody, Laws.commandLength_of_wf hw c]
  rfl

/-- Format C4: a command without a parameter (R54, D10). -/
theorem encodeCommand_plain {cfg : Cfg} (hw : cfg.wf = true) {c : CmdName} (hc : c.paramWidth = 0) (p : Nat) :
    encodeCommand cfg (cfg.row c) p =
      [cfg.cmdLead, 4, (cfg.row c).opcodeByte, cfg.cmdLead + 4 + (cfg.row c).opcodeByte] := by
  have hlen : low8 4 = 4 := rfl
  simp [encodeCommand, commandBody_of_wf hw, hc, hlen, bytesLE, cksum_cons, BitVec.add_assoc]

/-- Format C6: a parameter of two bytes, the low byte first (R54, R56, D10). -/
theorem encodeCommand_setFrameRate {cfg : Cfg} (hw : cfg.wf = true) (p : BitVec 16) :
    encodeCommand cfg (cfg.row .setFrameRate) p.toNat =
      [cfg.cmdLead, 6, (cfg.row .setFrameRate).opcodeByte, p.setWidth 8, (p >>> 8).setWidth 8,
       cfg.cmdLead + 6 + (cfg.row .setFrameRate).opcodeByte + p.setWidth 8 + (p >>> 8).setWidth 8] := by
  have hlen : low8 6 = 6 := rfl
  simp [encodeCommand, commandBody_of_wf hw, CmdName.paramWidth, hlen, bytesLE_two, cksum_cons, BitVec.add_assoc]

/-- Format C8: a parameter of four bytes, the least significant first (R54, R56, D10). -/
theorem encodeCommand_setBaudRate {cfg : Cfg} (hw : cfg.wf = true) (p : BitVec 32) :
    encodeCommand cfg (cfg.row .setBaudRate) p.toNat =
      [cfg.cmdLead, 8, (cfg.row .setBaudRate).opcodeByte,
       p.setWidth 8, (p >>> 8).setWidth 8, (p >>> 16).setWidth 8, (p >>> 24).setWidth 8,
       cfg.cmdLead + 8 + (cfg.row .setBaudRate).opcodeByte +
         p.setWidth 8 + (p >>> 8).setWidth 8 + (p >>> 16).setWidth 8 + (p >>> 24).setWidth 8] := by
  have hlen : low8 8 = 8 := rfl
  simp [encodeCommand, commandBody_of_wf hw, CmdName.paramWidth, hlen, bytesLE_four, cksum_cons, BitVec.add_assoc]

end Sys2Proof

namespace Sys2Proof.Machine

/-! A host's command as an instruction (R84). -/

theorem Command.context_instr (c : Command) : c.instr.context = .outbound := by
  cases c <;> rfl

theorem Command.wellFormed_instr (cfg : Cfg) (c : Command) : c.instr.wellFormed cfg = true := by
  cases c <;> rfl

theorem Command.encode_instr (cfg : Cfg) (c : Command) :
    ∃ p, encode cfg c.instr = encodeCommand cfg (cfg.row c.name) p := by
  cases c <;> exact ⟨_, rfl⟩

theorem Command.length_encode {cfg : Cfg} (hw : cfg.wf = true) (c : Command) :
    (encode cfg c.instr).length = (cfg.row c.name).commandLength := by
  obtain ⟨p, hbytes⟩ := c.encode_instr cfg
  rw [hbytes, Laws.length_command hw]

/-! What a command does (R77, R83). -/

/-- From IDLE, under a table that R30 admits, a command is its row's SEND (R77). -/
theorem exec_command_of_idle {s : State} (hp : s.phase = .idle) (hw : s.cfg.wf = true) (c : Command) :
    ∃ p, encode s.cfg c.instr = encodeCommand s.cfg (s.cfg.row c.name) p ∧
      exec c.instr s = .next (s.sendStep c.name p) := by
  obtain ⟨p, hexec, hbytes⟩ := exec_command c s
  exact ⟨p, hbytes, hexec.trans (State.start_of_idle hp hw)⟩

theorem exec_command_of_reply {s : State} (hp : s.phase = .idle) (hw : s.cfg.wf = true) (c : Command)
    (hr : (s.cfg.row c.name).replyLength ≠ 0) :
    exec c.instr s = .next (s.awaitingReply c.name (encode s.cfg c.instr)) := by
  obtain ⟨p, hbytes, hexec⟩ := exec_command_of_idle hp hw c
  rw [hexec, State.sendStep_of_reply hr, hbytes]

/-- A command without a parameter, its frame written out (format C4). -/
theorem exec_plain_of_reply {s : State} (hp : s.phase = .idle) (hw : s.cfg.wf = true) (c : Command)
    (hc : c.name.paramWidth = 0) (hr : (s.cfg.row c.name).replyLength ≠ 0) :
    exec c.instr s = .next (s.awaitingReply c.name
      [s.cfg.cmdLead, 4, (s.cfg.row c.name).opcodeByte, s.cfg.cmdLead + 4 + (s.cfg.row c.name).opcodeByte]) := by
  obtain ⟨p, hbytes⟩ := c.encode_instr s.cfg
  rw [exec_command_of_reply hp hw c hr, hbytes, encodeCommand_plain hw hc]

theorem exec_command_of_noReply {s : State} (hp : s.phase = .idle) (hw : s.cfg.wf = true) (c : Command)
    (hr : (s.cfg.row c.name).replyLength = 0) :
    exec c.instr s = .next ((s.rxDrain.txPush (encode s.cfg c.instr)).finish (.cmd .pass)) := by
  obtain ⟨p, hbytes, hexec⟩ := exec_command_of_idle hp hw c
  rw [hexec, State.sendStep_of_noReply hr, hbytes]

/-- A command that answers a next state leaves one of two: the reply awaited, or fire-and-forget (R77, R83). -/
theorem exec_command_next_cases {c : Command} {s t : State} (h : exec c.instr s = .next t) :
    s.phase = .idle ∧
    (((s.cfg.row c.name).replyLength ≠ 0 ∧ t = s.awaitingReply c.name (encode s.cfg c.instr)) ∨
     ((s.cfg.row c.name).replyLength = 0 ∧
      t = (s.rxDrain.txPush (encode s.cfg c.instr)).finish (.cmd .pass))) := by
  obtain ⟨hp, hw, -⟩ := exec_command_next h
  refine ⟨hp, ?_⟩
  by_cases hr : (s.cfg.row c.name).replyLength = 0
  · exact .inr ⟨hr, Host.Outcome.next.inj (h.symm.trans (exec_command_of_noReply hp hw c hr))⟩
  · exact .inl ⟨hr, Host.Outcome.next.inj (h.symm.trans (exec_command_of_reply hp hw c hr))⟩

/-! What is transmitted (R38, R85 (iv)). -/

@[simp] theorem State.sendStep_txq (c : CmdName) (p : Nat) (s : State) :
    (s.sendStep c p).txq = s.txq ++ encodeCommand s.cfg (s.cfg.row c) p := by
  rcases State.sendStep_cases c p s with ⟨-, e⟩ | ⟨-, e⟩ <;> rw [e]

@[simp] theorem State.resetInput_txq (s : State) : s.resetInput.txq = [] := rfl

theorem State.txq_of_sameBlock {s t : State} (h : t.sameBlock s) : t.txq = s.txq :=
  (congrArg State.txq h : t.txq = (s.withSurroundings _ _ _).txq)

/-- The block's own turns transmit nothing. -/
theorem BlockCase.txq_eq {s t : State} (h : BlockCase s t) : t.txq = s.txq := by
  rcases h.writes with ⟨o, p, rfl⟩ | ⟨b, q, o, p, -, rfl⟩ <;> rfl

/-- Everything a step can do to `TXQ`: nothing, one command's frame appended, or the reset (R85 (iv), R136). -/
theorem StepCase.txq_cases {s t : State} (h : StepCase s t) :
    t.txq = s.txq ∨ (∃ c : Command, t.txq = s.txq ++ encode s.cfg c.instr) ∨ t.txq = [] := by
  cases h with
  | block s0 h0 h =>
    exact .inl ((State.blockStep_inv h).txq_eq.trans (State.txq_of_sameBlock (State.sameBlock_of_schedule h0)))
  | surroundings h => exact .inl (State.txq_of_sameBlock h)
  | line q h => exact .inl (State.txq_of_sameBlock (s := { s with rxq := q }) h)
  | clock ms h => exact .inl ((State.txq_of_sameBlock h).trans (State.clock_txq ms s))
  | decode _ _ h => exact .inl ((State.txq_of_sameBlock h).trans (State.beginAttempt_txq .fSync 9 s))
  | send _ _ c p he h =>
    refine .inr (.inl ⟨c, ?_⟩)
    rw [State.txq_of_sameBlock h, State.sendStep_txq, he]
  | reset s0 _ h => exact .inr (.inr (h ▸ State.resetInput_txq s0))

theorem TxFramed.nil (cfg : Cfg) : TxFramed cfg [] := ⟨[], rfl⟩

theorem TxFramed.append {cfg : Cfg} {txq : List Byte} (h : TxFramed cfg txq) (c : Command) :
    TxFramed cfg (txq ++ encode cfg c.instr) := by
  obtain ⟨sent, rfl⟩ := h
  exact ⟨sent ++ [c], by simp⟩

theorem StepCase.txFramed {s t : State} (h : StepCase s t) (hs : TxFramed s.cfg s.txq) : TxFramed t.cfg t.txq := by
  rw [h.cfg_eq]
  rcases h.txq_cases with e | ⟨c, e⟩ | e <;> rw [e]
  · exact hs
  · exact hs.append c
  · exact TxFramed.nil _

end Sys2Proof.Machine
end

section
/-! The statements of the family 41_command_encoder.md. -/

namespace Sys2Proof.Machine

/-- Settles O40, by the cases of a step: only a SEND appends to `TXQ`, and what it appends is its command's frame. -/
theorem stepKeepsOutputFramed : Obligations.StepKeepsOutputFramed :=
  ⟨TxFramed.nil _, fun _ _ hs h => (step_inv h).txFramed hs⟩

/-- Settles O6: the frame decodes, and the decoder tests the bytes in question; R30 ties the length to the parameter's width. -/
theorem commandFramesWellFramed : Obligations.CommandFramesWellFramed := by
  intro cfg c hw
  obtain ⟨i, hdec, -⟩ := decode_encode hw (c.wellFormed_instr cfg)
  rw [c.context_instr] at hdec
  obtain ⟨hfour, hlead, hlengthByte, hck, -⟩ := decodeOutbound_eq_ok_iff.1 hdec
  have hlen := c.length_encode hw
  have hcmd : (cfg.row c.name).commandLength = c.name.paramWidth + 4 := Laws.commandLength_of_wf hw c.name
  have hwidth := c.name.paramWidth_le_four
  exact ⟨hlead, hlengthByte, hck, hlen, hfour, by omega⟩

/-- Settles O7: from IDLE each of the three is a SEND that awaits its reply, and its frame has format C4. -/
theorem plainCommandsSend : Obligations.PlainCommandsSend := fun _ hp hw =>
  ⟨exec_plain_of_reply hp hw .softReset rfl, exec_plain_of_reply hp hw .hardReset rfl,
   exec_plain_of_reply hp hw .saveSettings rfl⟩

/-- Settles O8: a SEND that awaits its reply, whose frame has format C6. -/
theorem setFrameRateSends : Obligations.SetFrameRateSends := by
  intro s p hp hw hr
  rw [← encodeCommand_setFrameRate hw p]
  exact exec_command_of_reply hp hw (.setFrameRate p) hr

/-- Settles O9: a SEND that awaits its reply, whose frame has format C8. -/
theorem setBaudRateSends : Obligations.SetBaudRateSends := by
  intro s p hp hw hr
  rw [← encodeCommand_setBaudRate hw p]
  exact exec_command_of_reply hp hw (.setBaudRate p) hr

/-- Settles O10: without a reply to await, SEND ends at once; the rule's example is evaluated. -/
theorem fireAndForgetPasses : Obligations.FireAndForgetPasses :=
  ⟨fun _ c hp hw hr => exec_command_of_noReply hp hw c hr, by decide⟩

/-- Settles O11: both states a command can leave are its start state but for the registers SEND writes. -/
theorem commandsFrame : Obligations.CommandsFrame := by
  intro c s t h
  obtain ⟨hp, ⟨hr, rfl⟩ | ⟨-, rfl⟩⟩ := exec_command_next_cases h
  · exact ⟨rfl, rfl, rfl, rfl, rfl, rfl, rfl, fun h0 => absurd h0 hr⟩
  · exact ⟨rfl, rfl, rfl, rfl, rfl, rfl, rfl, fun _ => ⟨rfl, rfl, rfl, rfl, rfl, hp.symm⟩⟩

end Sys2Proof.Machine
end

section
/-! SUPPORT. What a reply of the awaited length does in R_SYNC: its bytes, its checksum test, and the result they give. -/

namespace Sys2Proof

/-- The bytes of a reply, with its length byte written from the length it is known to have (R55). -/
theorem replyBytes_of_length (cfg : Cfg) {body : List Byte} (ck : Byte) {len : Nat} (hb : body.length + 3 = len) :
    replyBytes cfg body ck = cfg.cmdLead :: BitVec.ofNat 8 len :: body ++ [ck] := by
  subst hb
  rfl

/-- A reply is checksum-valid when its checksum byte is that of its other bytes (R53, R55). -/
theorem cksumValid_replyBytes (cfg : Cfg) {body : List Byte} {ck : Byte} {len : Nat} (hb : body.length + 3 = len) :
    cksumValid (replyBytes cfg body ck) = true ↔ ck = cksum (cfg.cmdLead :: BitVec.ofNat 8 len :: body) := by
  rw [replyBytes_of_length cfg ck hb, cksumValid_append, beq_iff_eq]

end Sys2Proof

namespace Sys2Proof.Machine

theorem interpret_of_ack {cfg : Cfg} {c : CmdName} (h : (cfg.row c).ack = true) (f : List Byte) :
    interpret cfg c f = if byteAt f cfg.failFlagOffset = 1 then .fail else .pass := if_pos h

theorem interpret_of_no_flag {cfg : Cfg} {c : CmdName} (h : (cfg.row c).ack = false) (f : List Byte) :
    interpret cfg c f = .pass := if_neg (by simp [h])

/-- Every reply of the awaited length ends the attempt in R_SYNC; its result is read by CUR, not by the row `c` it is named
after (R92, R93, R101). -/
theorem exec_reply {s : State} (hp : s.phase = .rSync) (c : CmdName) {body : List Byte} (ck : Byte)
    (hb : body.length + 3 = s.len) (hl : s.len ≤ 9) :
    exec (replyInstr c body ck) s =
      .next (s.finish (.cmd (replyResult s.cfg s.cur (replyBytes s.cfg body ck)))) := by
  have hinbound : isInbound (replyInstr c body ck) := by simp [isInbound, context_replyInstr]
  rw [exec_inbound hinbound, encode_replyInstr, State.receive_of_rSync hp (isReplyCandidate_replyBytes _ ck hb hl)]

/-- With a right checksum that result is INTERPRET's (R93). -/
theorem exec_reply_of_right_checksum {s : State} (hp : s.phase = .rSync) (c : CmdName) {body : List Byte} {ck : Byte}
    (hb : body.length + 3 = s.len) (hl : s.len ≤ 9)
    (hck : ck = cksum (s.cfg.cmdLead :: BitVec.ofNat 8 s.len :: body)) :
    exec (replyInstr c body ck) s =
      .next (s.finish (.cmd (interpret s.cfg s.cur (s.cfg.cmdLead :: BitVec.ofNat 8 s.len :: body ++ [ck])))) := by
  rw [exec_reply hp c ck hb hl, replyResult, if_pos ((cksumValid_replyBytes s.cfg hb).2 hck),
    replyBytes_of_length s.cfg ck hb]

end Sys2Proof.Machine
end

section
/-! The statements of the family 42_reply_decoder.md. -/

namespace Sys2Proof.Machine

/-- Settles O19: the five replies are one reception, whose result under an acknowledging CUR is the flag byte's. -/
theorem ackRepliesInterpretFlag : Obligations.AckRepliesInterpretFlag := by
  intro body s hp hack hb hl ck hck result
  have hreply (c : CmdName) : exec (replyInstr c body ck) s = .next (s.finish (.cmd result)) := by
    rw [exec_reply_of_right_checksum hp c hb hl hck, interpret_of_ack hack]
    rfl
  exact ⟨hreply .softReset, hreply .hardReset, hreply .saveSettings, hreply .setFrameRate, hreply .setBaudRate⟩

/-- Settles O20: the five replies are one reception, whose result under a CUR without flag reads no byte. -/
theorem echoRepliesPass : Obligations.EchoRepliesPass := by
  intro body s hp hack hb hl ck hck
  have hreply (c : CmdName) : exec (replyInstr c body ck) s = .next (s.finish (.cmd .pass)) := by
    rw [exec_reply_of_right_checksum hp c hb hl hck, interpret_of_no_flag hack]
  exact ⟨hreply .setFrameRate, hreply .setBaudRate, hreply .softReset, hreply .hardReset, hreply .saveSettings⟩

/-- Settles O21: the checksum is tested before CUR's class is looked at. -/
theorem repliesWrongChecksumRejected : Obligations.RepliesWrongChecksumRejected := by
  intro c body ck s hp hb hl hck
  have hinvalid : ¬ cksumValid (replyBytes s.cfg body ck) = true := mt (cksumValid_replyBytes s.cfg hb).1 hck
  rw [exec_reply hp c ck hb hl, replyResult, if_neg hinvalid]
  rfl

end Sys2Proof.Machine
end

section
/-! SUPPORT. What the block does not read of its surroundings, which turns can stop, and what each operation of the host's
software leaves: a tick, the error tracker, and the outcomes a host takes. -/

namespace Sys2Proof

/-! Ages on the wrapping clock (R130). -/

/-- The age of a time `d` ago is `d`, also across a wrap, as long as the clock has not gone round. -/
theorem timeSince_add (width t : Nat) {d : Nat} (h : d < 2 ^ width) : timeSince width ((t + d) % 2 ^ width) t = d := by
  have hr := Nat.mod_lt t (Nat.two_pow_pos width)
  have hsum : t + d + (2 ^ width - t % 2 ^ width) = d + 2 ^ width * (t / 2 ^ width + 1) := by
    rw [Nat.mul_add, Nat.mul_one]
    have ht := Nat.div_add_mod t (2 ^ width)
    omega
  rw [timeSince, Nat.mod_add_mod, hsum, Nat.add_mul_mod_self_left, Nat.mod_eq_of_lt h]

theorem timeSince_mod (width now t : Nat) : timeSince width now (t % 2 ^ width) = timeSince width now t := by
  simp only [timeSince, Nat.mod_mod]

end Sys2Proof

namespace Sys2Proof.Machine

/-! The block reads nothing of its surroundings (R25, R102). -/

/-- Every instruction is a frame the block may meet, or a command a host may name. -/
theorem Instr.inbound_or_command (i : Instr) : isInbound i ∨ ∃ c : Command, i = c.instr := by
  cases i with
  | softReset => exact .inr ⟨.softReset, rfl⟩
  | hardReset => exact .inr ⟨.hardReset, rfl⟩
  | setFrameRate p => exact .inr ⟨.setFrameRate p, rfl⟩
  | setBaudRate p => exact .inr ⟨.setBaudRate p, rfl⟩
  | saveSettings => exact .inr ⟨.saveSettings, rfl⟩
  | _ => exact .inl nofun

theorem State.receive_of_no_reply {f : List Byte} {s : State} (hp : s.phase = .rSync)
    (hc : isReplyCandidate s.cfg s.len f ≠ true) : s.receive f = s := by
  simp [State.receive, hp, hc]

section
variable {s : State} {deadlineMs : Nat} (expiry : Out)

theorem State.syncStep_of_expired (h : deadlineMs ≤ s.elapsed) :
    s.syncStep deadlineMs expiry = .next (s.finish expiry) := if_pos h

theorem State.syncStep_of_no_byte (h : s.elapsed < deadlineMs) (hq : s.rxq = []) :
    s.syncStep deadlineMs expiry = .next s := by
  rw [State.syncStep, if_neg (Nat.not_le.2 h), State.rxPop_nil hq]

theorem State.syncStep_of_byte (h : s.elapsed < deadlineMs) {b : Byte} {q : List Byte} (hq : s.rxq = b :: q) :
    s.syncStep deadlineMs expiry = (s.tookByte b q).testWindow := by
  rw [State.syncStep, if_neg (Nat.not_le.2 h), State.rxPop_cons hq]
  rfl

end

section
variable (s : State) (d : Driver) (x : List Turn) (k : Nat)

@[simp] theorem State.withSurroundings_cfg : (s.withSurroundings d x k).cfg = s.cfg := rfl
@[simp] theorem State.withSurroundings_phase : (s.withSurroundings d x k).phase = s.phase := rfl
@[simp] theorem State.withSurroundings_n : (s.withSurroundings d x k).n = s.n := rfl
@[simp] theorem State.withSurroundings_len : (s.withSurroundings d x k).len = s.len := rfl
@[simp] theorem State.withSurroundings_window : (s.withSurroundings d x k).window = s.window := rfl
@[simp] theorem State.withSurroundings_context : (s.withSurroundings d x k).context = s.context := rfl

theorem State.receive_withSurroundings (f : List Byte) :
    (s.withSurroundings d x k).receive f = (s.receive f).withSurroundings d x k := by
  cases hp : s.phase with
  | idle => rw [State.receive_of_idle hp, State.receive_of_idle (s := s.withSurroundings d x k) hp]
  | fSync =>
    by_cases hc : isFrameCandidate s.cfg f = true
    · rw [State.receive_of_fSync hp hc, State.receive_of_fSync (s := s.withSurroundings d x k) hp hc]
      rfl
    · rw [State.receive_of_no_frame hp hc, State.receive_of_no_frame (s := s.withSurroundings d x k) hp hc]
  | rSync =>
    by_cases hc : isReplyCandidate s.cfg s.len f = true
    · rw [State.receive_of_rSync hp hc, State.receive_of_rSync (s := s.withSurroundings d x k) hp hc]
      rfl
    · rw [State.receive_of_no_reply hp hc, State.receive_of_no_reply (s := s.withSurroundings d x k) hp hc]

theorem State.start_withSurroundings {effect : State → State}
    (h : effect (s.withSurroundings d x k) = (effect s).withSurroundings d x k) :
    (s.withSurroundings d x k).start effect = mapNext (·.withSurroundings d x k) (s.start effect) := by
  simp only [State.start, State.withSurroundings_phase, State.withSurroundings_cfg, h]
  split
  · rfl
  · split <;> rfl

theorem exec_withSurroundings (i : Instr) :
    exec i (s.withSurroundings d x k) = mapNext (·.withSurroundings d x k) (exec i s) := by
  rcases Instr.inbound_or_command i with hi | ⟨c, rfl⟩
  · rw [exec_inbound hi, exec_inbound hi, State.withSurroundings_cfg, State.receive_withSurroundings]
    rfl
  · obtain ⟨p, he⟩ := exec_command_uniform c
    rw [he, he]
    exact s.start_withSurroundings d x k (s.sendStep_withSurroundings d x k c.name p)

theorem State.testWindow_withSurroundings :
    (s.withSurroundings d x k).testWindow = mapNext (·.withSurroundings d x k) s.testWindow := by
  simp only [State.testWindow, State.withSurroundings_n, State.withSurroundings_len, State.withSurroundings_cfg,
    State.withSurroundings_context, State.withSurroundings_window, exec_withSurroundings]
  split
  · cases decode s.cfg s.context s.window <;> rfl
  · rfl

theorem State.syncStep_withSurroundings (deadlineMs : Nat) (expiry : Out) :
    (s.withSurroundings d x k).syncStep deadlineMs expiry =
      mapNext (·.withSurroundings d x k) (s.syncStep deadlineMs expiry) := by
  rcases Nat.lt_or_ge s.elapsed deadlineMs with hrun | hexpired
  · cases hq : s.rxq with
    | nil =>
      rw [State.syncStep_of_no_byte expiry hrun hq,
        State.syncStep_of_no_byte (s := s.withSurroundings d x k) expiry hrun hq]
      rfl
    | cons b q =>
      rw [State.syncStep_of_byte expiry hrun hq, State.syncStep_of_byte (s := s.withSurroundings d x k) expiry hrun hq]
      exact (s.tookByte b q).testWindow_withSurroundings d x k
  · rw [State.syncStep_of_expired expiry hexpired,
      State.syncStep_of_expired (s := s.withSurroundings d x k) expiry hexpired]
    rfl

theorem State.blockStep_withSurroundings :
    (s.withSurroundings d x k).blockStep = mapNext (·.withSurroundings d x k) s.blockStep := by
  cases hp : s.phase with
  | idle => rw [State.blockStep_of_idle hp, State.blockStep_of_idle (s := s.withSurroundings d x k) hp]; rfl
  | fSync =>
    rw [State.blockStep_of_fSync hp, State.blockStep_of_fSync (s := s.withSurroundings d x k) hp]
    exact s.syncStep_withSurroundings d x k _ _
  | rSync =>
    rw [State.blockStep_of_rSync hp, State.blockStep_of_rSync (s := s.withSurroundings d x k) hp]
    exact s.syncStep_withSurroundings d x k _ _

end

/-! A tick (R105 to R107). -/

/-- The retry interval is over, or the back-off is cleared (R106, R110). -/
theorem Driver.retryDue_iff {cfg : Cfg} {now : Nat} {d : Driver} : d.retryDue cfg now = true ↔
    d.lastRetry = none ∨ ∃ r, d.lastRetry = some r ∧ cfg.driver.retryIntervalMs ≤ timeSince cfg.nowWidth now r := by
  cases h : d.lastRetry <;> simp [Driver.retryDue, h]

/-- When a tick outside Sleeping reads (R106, R107). -/
theorem Driver.readsThisTick_iff {cfg : Cfg} {now : Nat} {d : Driver} (h : d.device ≠ .sleeping) :
    d.readsThisTick cfg now = true ↔ d.device = .online ∨ d.inGrace cfg now = true ∨ d.lastRetry = none ∨
      ∃ r, d.lastRetry = some r ∧ cfg.driver.retryIntervalMs ≤ timeSince cfg.nowWidth now r := by
  rw [← Driver.retryDue_iff]
  cases hd : d.device with
  | online => simp [Driver.readsThisTick, hd]
  | offline => simp [Driver.readsThisTick, hd]
  | sleeping => exact absurd hd h

theorem Driver.readsThisTick_of_sleeping {cfg : Cfg} {now : Nat} {d : Driver} (h : d.device = .sleeping) :
    d.readsThisTick cfg now = false := by
  simp [Driver.readsThisTick, h]

/-- With the back-off cleared any tick in Offline reads (R110). -/
theorem Driver.readsThisTick_of_cleared {d : Driver} (hd : d.device = .offline) (hr : d.lastRetry = none) (cfg : Cfg)
    (now : Nat) : d.readsThisTick cfg now = true :=
  (Driver.readsThisTick_iff (by simp [hd])).2 (.inr (.inr (.inl hr)))

/-- Forgetting a wake-grace window that is over does not change whether the tick reads. -/
theorem Driver.readsThisTick_expireGrace (cfg : Cfg) (now : Nat) (d : Driver) :
    (d.expireGrace cfg now).readsThisTick cfg now = d.readsThisTick cfg now := by
  simp only [Driver.readsThisTick, Driver.inGrace_expireGrace]
  rfl

/-- A tick that reads is DECODE, by a host that has noted it. -/
theorem State.tick_of_reads {s : State} (h : s.driver.readsThisTick s.cfg s.now = true) :
    s.tick = State.decodeStart { s with driver := (s.driver.expireGrace s.cfg s.now).reading s.now } :=
  if_pos ((Driver.readsThisTick_expireGrace s.cfg s.now s.driver).trans h)

theorem State.tick_of_sleeping {s : State} (h : s.driver.device = .sleeping) :
    s.tick = .next { s with driver := (s.driver.expireGrace s.cfg s.now).sleepingTick } := by
  have hno : ¬ (s.driver.expireGrace s.cfg s.now).readsThisTick s.cfg s.now = true := by
    simp [Driver.readsThisTick_expireGrace, Driver.readsThisTick_of_sleeping h]
  exact (if_neg hno).trans (if_pos h)

theorem State.tick_of_wait {s : State} (h : s.driver.device ≠ .sleeping)
    (hno : ¬ s.driver.readsThisTick s.cfg s.now = true) :
    s.tick = .next { s with driver := s.driver.expireGrace s.cfg s.now } := by
  rw [← Driver.readsThisTick_expireGrace] at hno
  exact (if_neg hno).trans (if_neg h)

/-- A tick in Sleeping: the health, and one signal where none was sent (R105). -/
theorem Driver.sleepingTick_eq (d : Driver) : d.sleepingTick = { d with
    lastReported := some .sleeping
    publishedUnavailable := true
    gate := if d.publishedUnavailable then d.gate else d.gate ++ [.unavailable] } := by
  cases h : d.publishedUnavailable <;> simp [Driver.sleepingTick, Driver.signalUnavailable, h]

/-! Which turns can stop (R47, R30, R117). -/

/-- An answer that is a next state, or the refusal of a table that breaks R30. -/
def StopsForTableOnly (cfg : Cfg) (a : Answer) : Prop :=
  (∃ t, a = .next t) ∨ (a = .refused .illFormedTable ∧ cfg.wf = false)

/-- An answer that is the fault of a host that is not free, or stops for the table only. -/
def State.StopsForDutyOrTable (s : State) (a : Answer) : Prop :=
  (a = .fault .startWhileBusy ∧ s.hostFree = false) ∨ StopsForTableOnly s.cfg a

theorem State.start_stops {effect : State → State} {s : State} (hp : s.phase = .idle) :
    StopsForTableOnly s.cfg (s.start effect) := by
  cases hw : s.cfg.wf with
  | true => exact .inl ⟨_, State.start_of_idle hp hw⟩
  | false => exact .inr ⟨State.start_of_illFormed hp hw, hw⟩

theorem exec_command_stops (c : Command) {s : State} (hp : s.phase = .idle) : StopsForTableOnly s.cfg (exec c.instr s) := by
  obtain ⟨p, he⟩ := exec_command_uniform c
  exact he s ▸ State.start_stops hp

theorem State.tick_stops {s : State} (hp : s.phase = .idle) : StopsForTableOnly s.cfg s.tick := by
  by_cases hd : s.driver.device = .sleeping
  · exact .inl ⟨_, State.tick_of_sleeping hd⟩
  · by_cases hr : s.driver.readsThisTick s.cfg s.now = true
    · rw [State.tick_of_reads hr]
      exact State.start_stops (s := { s with driver := _ }) hp
    · exact .inl ⟨_, State.tick_of_wait hd hr⟩

theorem State.sleepRequest_stops {s : State} (hp : s.phase = .idle) : StopsForTableOnly s.cfg s.sleepRequest :=
  exec_command_stops (.setFrameRate 0) (s := { s with driver := { s.driver with pending := .sleep } }) hp

theorem State.wakeRequest_stops (rate : BitVec 16) {s : State} (hp : s.phase = .idle) :
    StopsForTableOnly s.cfg (s.wakeRequest rate) :=
  exec_command_stops (.setFrameRate rate)
    (s := { s with driver := { s.driver with pending := .wake, savedRate := rate } }) hp

theorem State.setupRequest_stops (soft : Bool) (rate : BitVec 16) (persist : Bool) {s : State} (hp : s.phase = .idle) :
    StopsForTableOnly s.cfg (s.setupRequest soft rate persist) := by
  unfold State.setupRequest
  split
  · exact .inl ⟨_, rfl⟩
  · exact exec_command_stops _ (s := { s with driver := _ }) hp

theorem State.collect_stops (s : State) : StopsForTableOnly s.cfg s.collect := by
  unfold State.collect
  split
  · exact .inl ⟨_, rfl⟩
  · rename_i hp
    split
    · exact .inl ⟨_, rfl⟩
    · exact .inl ⟨_, rfl⟩
    · exact .inl ⟨_, rfl⟩
    · exact .inl ⟨_, rfl⟩
    · unfold State.collectSetup
      split
      · exact .inl ⟨_, rfl⟩
      · exact exec_command_stops _ (s := { s with driver := _ }) (not_not.1 hp)

theorem State.serialised_stops {k : State → Answer} {s : State} (h : s.phase = .idle → StopsForTableOnly s.cfg (k s)) :
    s.StopsForDutyOrTable (s.serialised k) := by
  unfold State.serialised
  split
  · rename_i hfree
    simp only [State.hostFree, Bool.and_eq_true, beq_iff_eq] at hfree
    exact .inr (h hfree.1)
  · rename_i hbusy
    exact .inl ⟨rfl, by simpa using hbusy⟩

/-- Everything that can stop a turn of the host (R47, R103, R30). -/
theorem State.hostStep_stops (r : Request) (s : State) : s.StopsForDutyOrTable (s.hostStep r) := by
  cases r with
  | decode => exact State.serialised_stops State.start_stops
  | send c => exact State.serialised_stops (exec_command_stops c)
  | tick => exact State.serialised_stops State.tick_stops
  | sleep => exact State.serialised_stops State.sleepRequest_stops
  | wake rate => exact State.serialised_stops (State.wakeRequest_stops rate)
  | setup soft rate persist => exact State.serialised_stops (State.setupRequest_stops soft rate persist)
  | collect => exact .inr s.collect_stops

theorem State.blockStep_total (s : State) : ∃ t, s.blockStep = .next t := by
  rcases s.blockStep_cases with ⟨-, e⟩ | ⟨-, e⟩ | ⟨-, e⟩
  · exact ⟨_, e⟩
  · exact e ▸ State.syncStep_total _ _ s
  · exact e ▸ State.syncStep_total _ _ s

/-- Every turn but the host's answers a next state. -/
theorem State.runTurn_total {u : Turn} (h : ∀ r, u ≠ .host r) (s : State) : ∃ t, s.runTurn u = .next t := by
  cases u with
  | block => exact s.blockStep_total
  | host r => exact absurd rfl (h r)
  | lineIn b => exact ⟨_, rfl⟩
  | clock ms => exact ⟨_, rfl⟩
  | reset => exact ⟨_, rfl⟩

/-- A step answers a next state, or it is the host's turn and stops as a host's turn can. -/
theorem step_stops (s : State) : (∃ t, step s = .next t) ∨
    ((∃ req rest, s.schedule = .host req :: rest) ∧ s.StopsForDutyOrTable (step s)) := by
  cases hs : s.schedule with
  | nil => exact .inl (step_of_empty hs ▸ s.blockStep_total)
  | cons u rest =>
    rw [step_of_cons hs]
    cases u with
    | host req => exact .inr ⟨⟨req, rest, rfl⟩, State.hostStep_stops req { s with schedule := rest }⟩
    | block | lineIn b | clock ms | reset => exact .inl (State.runTurn_total (by simp) _)

/-! The error tracker (R114). -/

/-- A report is allowed when none was emitted within the window's length. -/
theorem Driver.reportAllowed_iff {cfg : Cfg} {now : Nat} {d : Driver} : d.reportAllowed cfg now = true ↔
    ∀ t, d.lastErrorLog = some t → cfg.driver.errorWindowMs ≤ timeSince cfg.nowWidth now t := by
  cases h : d.lastErrorLog <;> simp [Driver.reportAllowed, h]

@[simp] theorem Driver.countError_reports (cfg : Cfg) (now : Nat) (d : Driver) :
    (d.countError cfg now).reports = d.reports := by
  rcases d.countError_cases cfg now with ⟨-, e⟩ | ⟨-, e⟩ <;> rw [e]

@[simp] theorem Driver.countError_lastErrorLog (cfg : Cfg) (now : Nat) (d : Driver) :
    (d.countError cfg now).lastErrorLog = d.lastErrorLog := by
  rcases d.countError_cases cfg now with ⟨-, e⟩ | ⟨-, e⟩ <;> rw [e]

section
variable (cfg : Cfg) (now : Nat) (emits : Bool) (status : StatusCode) (d : Driver)

/-- A failure within its window counts (R114). -/
theorem Driver.record_window_of_goesOn
    (h : ∃ t, d.errorWindowStart = some t ∧ timeSince cfg.nowWidth now t < cfg.driver.errorWindowMs) :
    (d.record cfg now emits status).errorWindowCount = d.errorWindowCount + 1 ∧
    (d.record cfg now emits status).errorWindowStart = d.errorWindowStart := by
  rcases d.countError_cases cfg now with ⟨-, e⟩ | ⟨hover, -⟩
  · exact ⟨(congrArg Driver.errorWindowCount e :), (congrArg Driver.errorWindowStart e :)⟩
  · obtain ⟨t, ht, hlt⟩ := h
    exact absurd (hover t ht) (Nat.not_le.2 hlt)

/-- A failure outside a window starts one (R114; log entry 32). -/
theorem Driver.record_window_of_over
    (h : ¬∃ t, d.errorWindowStart = some t ∧ timeSince cfg.nowWidth now t < cfg.driver.errorWindowMs) :
    (d.record cfg now emits status).errorWindowCount = 1 ∧
    (d.record cfg now emits status).errorWindowStart = some now := by
  rcases d.countError_cases cfg now with ⟨hon, -⟩ | ⟨-, e⟩
  · exact absurd hon h
  · exact ⟨congrArg Driver.errorWindowCount e, congrArg Driver.errorWindowStart e⟩

/-- A report is emitted when it is chosen and allowed, and only then (R114). -/
theorem Driver.record_reports (h : emits = true ∧ d.reportAllowed cfg now = true) :
    (d.record cfg now emits status).reports =
      d.reports ++ [((d.record cfg now emits status).errorWindowCount, status)] ∧
    (d.record cfg now emits status).lastErrorLog = some now := by
  obtain ⟨hemits, hallowed⟩ := h
  simp [Driver.record, hemits, hallowed]

theorem Driver.record_no_report (h : ¬(emits = true ∧ d.reportAllowed cfg now = true)) :
    (d.record cfg now emits status).reports = d.reports ∧
    (d.record cfg now emits status).lastErrorLog = d.lastErrorLog := by
  rcases d.record_cases cfg now emits status with ⟨hr, -⟩ | ⟨-, e⟩
  · exact absurd (Bool.and_eq_true_iff.1 hr) h
  · rw [e]
    exact ⟨d.countError_reports cfg now, d.countError_lastErrorLog cfg now⟩

/-- What the tracker leaves as it was (R114). -/
theorem Driver.record_frame : d.record cfg now emits status = { d with
    errorWindowCount := (d.record cfg now emits status).errorWindowCount
    errorWindowStart := (d.record cfg now emits status).errorWindowStart
    reports := (d.record cfg now emits status).reports
    lastErrorLog := (d.record cfg now emits status).lastErrorLog } := by
  unfold Driver.record
  rcases d.countError_cases cfg now with ⟨-, e⟩ | ⟨-, e⟩ <;> rw [e]

end

/-- Failures within the window's length of a report add none, however many they are (R114, X8). -/
theorem Driver.reports_of_recent_report {cfg : Cfg} {t : Nat} {failures : List (Nat × Bool × StatusCode)}
    (hrecent : ∀ f ∈ failures, timeSince cfg.nowWidth f.1 t < cfg.driver.errorWindowMs) {d : Driver}
    (hlog : d.lastErrorLog = some t) :
    (failures.foldl (fun e f => e.record cfg f.1 f.2.1 f.2.2) d).reports = d.reports := by
  induction failures generalizing d with
  | nil => rfl
  | cons f rest ih =>
    obtain ⟨hf, hrest⟩ := List.forall_mem_cons.1 hrecent
    have hno : ¬(f.2.1 = true ∧ d.reportAllowed cfg f.1 = true) := fun h =>
      absurd (Driver.reportAllowed_iff.1 h.2 t hlog) (Nat.not_le.2 hf)
    obtain ⟨hreports, hlast⟩ := d.record_no_report cfg f.1 f.2.1 f.2.2 hno
    exact (ih hrest (hlast.trans hlog)).trans hreports

/-! The outcome of a read (R108, R109). -/

/-- No good frame ever, or the last one longer ago than the threshold (R109; log entry 21). -/
theorem Driver.silent_iff {cfg : Cfg} {now : Nat} {d : Driver} : d.silent cfg now = true ↔
    ∀ g, d.lastGoodFrame = some g →
      (if d.inGrace cfg now then cfg.driver.offlineTimeoutGraceMs else cfg.driver.offlineTimeoutMs) <
        timeSince cfg.nowWidth now g := by
  cases h : d.lastGoodFrame <;> simp [Driver.silent, h]

/-- Everything a failed read leaves to the declaration of Offline (R109, R110): nothing, the retry time of a host already
Offline, or the transition. -/
theorem Driver.declareOffline_cases (cfg : Cfg) (now : Nat) (r : FrameReason) (d : Driver) :
    (¬ d.silent cfg now = true ∧ d.declareOffline cfg now r = d) ∨
    (d.silent cfg now = true ∧ d.device = .offline ∧
      ∃ retry, d.declareOffline cfg now r = { d with lastRetry := retry }) ∨
    (d.silent cfg now = true ∧ d.device ≠ .offline ∧
      ∃ retry, d.declareOffline cfg now r = { d.goOffline r.status with lastRetry := retry }) := by
  unfold Driver.declareOffline
  split
  · rename_i hs
    dsimp only
    split
    · rename_i hd
      refine .inr (.inl ⟨hs, hd, ?_⟩)
      split <;> exact ⟨_, rfl⟩
    · rename_i hd
      refine .inr (.inr ⟨hs, hd, ?_⟩)
      split <;> exact ⟨_, rfl⟩
  · rename_i hs
    exact .inl ⟨hs, rfl⟩

/-- The host after a failure, tracked and reported, before it judges whether the sensor is Offline (R114, R115). -/
def Driver.failureReported (cfg : Cfg) (now : Nat) (emits : Bool) (status : StatusCode) (d : Driver) : Driver :=
  { d.record cfg now emits status with lastReported := some status }

section
variable (cfg : Cfg) (now : Nat) (emits : Bool) (status : StatusCode) (d : Driver)

@[simp] theorem Driver.failureReported_device : (d.failureReported cfg now emits status).device = d.device := by
  rw [Driver.failureReported, Driver.record_frame]

@[simp] theorem Driver.failureReported_gate : (d.failureReported cfg now emits status).gate = d.gate := by
  rw [Driver.failureReported, Driver.record_frame]

@[simp] theorem Driver.failureReported_lastGoodFrame :
    (d.failureReported cfg now emits status).lastGoodFrame = d.lastGoodFrame := by
  rw [Driver.failureReported, Driver.record_frame]

/-- The tracker does not enter the judgement whether the sensor is silent. -/
@[simp] theorem Driver.failureReported_silent :
    (d.failureReported cfg now emits status).silent cfg now = d.silent cfg now := by
  rw [Driver.failureReported, Driver.record_frame]
  rfl

end

/-! The outcome a host takes (R103). -/

theorem State.collectRead_of_reading {s : State} {ds st tc : Int} {a : Anomaly} (ho : s.out = .reading ds st tc a) :
    s.collectRead = { s with
      driver := { s.driver.goodFrame s.now (Config.gatePublishes s.free) ds st tc a with pending := .none }
      free := s.free + 1 } := by
  simp [State.collectRead, ho]

theorem State.collectRead_of_frameFail {s : State} {r : FrameReason} (ho : s.out = .frameFail r) :
    s.collectRead = { s with
      driver :=
        { (s.driver.failureReported s.cfg s.now (Config.reportsNow s.free) r.status).declareOffline s.cfg s.now r with
          pending := .none }
      free := s.free + 1 } := by
  simp [State.collectRead, Driver.failureReported, ho]

theorem State.collectSleep_of_cmd {s : State} {r : CmdResult} (ho : s.out = .cmd r) :
    s.collectSleep =
      if r = .pass then { s with driver := { s.driver.signalUnavailable with
        lastReported := some .pass, pending := .none, device := .sleeping } }
      else { s with driver := { s.driver with lastReported := some r.status, pending := .none } } := by
  cases r <;> simp [State.collectSleep, Driver.commandReported, Driver.signalUnavailable, CmdResult.status, ho]

theorem State.collectWake_of_cmd {s : State} {r : CmdResult} (ho : s.out = .cmd r) :
    s.collectWake =
      if r = .pass then { s with driver := { s.driver with
        lastReported := some .pass, pending := .none, device := .offline, lastRetry := none,
        wakeGraceDeadline := some ((s.now + s.cfg.driver.wakeGraceMs) % 2 ^ s.cfg.nowWidth) } }
      else { s with driver := { s.driver with lastReported := some r.status, pending := .none } } := by
  cases r <;> simp [State.collectWake, Driver.commandReported, CmdResult.status, ho]

section
variable {s : State} (hp : s.phase = .idle)
include hp

theorem State.hostStep_collect_read (h : s.driver.pending = .read) : s.hostStep .collect = .next s.collectRead := by
  simp [State.hostStep, State.collect, hp, h]

theorem State.hostStep_collect_sleep (h : s.driver.pending = .sleep) : s.hostStep .collect = .next s.collectSleep := by
  simp [State.hostStep, State.collect, hp, h]

theorem State.hostStep_collect_wake (h : s.driver.pending = .wake) : s.hostStep .collect = .next s.collectWake := by
  simp [State.hostStep, State.collect, hp, h]

end

/-- A host that is free runs the tick, and no operation of it waits. -/
theorem State.hostStep_tick_of_free {s : State} (h : s.hostFree = true) :
    s.phase = .idle ∧ s.driver.pending = .none ∧ s.hostStep .tick = s.tick := by
  simp only [State.hostFree, Bool.and_eq_true, beq_iff_eq] at h
  obtain ⟨hp, hd⟩ := h
  exact ⟨hp, hd, State.serialised_of_free hp hd⟩

/-! The wake-grace window (R113, R119). -/

/-- A window opened for `wakeGraceMs` is open before its last instant, across a wrap of NOW too (log entry 21). -/
theorem Driver.inGrace_before_deadline {cfg : Cfg} {now ms : Nat} {d : Driver}
    (hd : d.wakeGraceDeadline = some ((now + cfg.driver.wakeGraceMs) % 2 ^ cfg.nowWidth))
    (hlen : cfg.driver.wakeGraceMs < 2 ^ cfg.nowWidth) (hms : ms < cfg.driver.wakeGraceMs) :
    d.inGrace cfg ((now + ms) % 2 ^ cfg.nowWidth) = true := by
  have hleft : timeSince cfg.nowWidth ((now + cfg.driver.wakeGraceMs) % 2 ^ cfg.nowWidth)
      ((now + ms) % 2 ^ cfg.nowWidth) = cfg.driver.wakeGraceMs - ms := by
    rw [timeSince_mod, show now + cfg.driver.wakeGraceMs = now + ms + (cfg.driver.wakeGraceMs - ms) by omega]
    exact timeSince_add _ _ (by omega)
  simp only [Driver.inGrace, hd, hleft, decide_eq_true_eq]
  omega

/-- At its last instant it is over (log entry 21). -/
theorem Driver.inGrace_at_deadline {cfg : Cfg} {t : Nat} {d : Driver} (hd : d.wakeGraceDeadline = some t) :
    d.inGrace cfg t = false := by
  simp [Driver.inGrace, hd, timeSince_self]

end Sys2Proof.Machine
end

section
/-! The statements of the family 44_host_environment.md. -/

namespace Sys2Proof.Machine

/-- Settles O33, by the inversion of what can stop a step: only a host's turn, for its duty or for the table. -/
theorem onlyHostTurnsStop : Obligations.OnlyHostTurnsStop := by
  refine ⟨fun s u h => s.runTurn_total h, fun s r h => ?fault, fun s r h => ?refusal⟩
  all_goals
    rcases step_stops s with ⟨t, e⟩ | ⟨hturn, ⟨e, hbusy⟩ | ⟨t, e⟩ | ⟨e, hw⟩⟩ <;> rw [e] at h <;> cases h
  case fault => exact ⟨hturn, hbusy⟩
  case refusal => exact ⟨rfl, hw⟩

/-- Settles O45: every operation of the block commutes with the replacement of its surroundings. -/
theorem blockIgnoresHostSoftware : Obligations.BlockIgnoresHostSoftware :=
  fun s d sched k => ⟨exec_withSurroundings s d sched k, s.blockStep_withSurroundings d sched k⟩

/-- Settles O48: the three ways of a tick, told apart by whether it reads. -/
theorem tickAttemptsRead : Obligations.TickAttemptsRead := by
  intro s hfree hw hawake due
  obtain ⟨hp, hnone, htick⟩ := State.hostStep_tick_of_free hfree
  have hreads : s.driver.readsThisTick s.cfg s.now = true ↔ due := Driver.readsThisTick_iff hawake
  rw [htick]
  refine ⟨fun hdue => ?reads, fun hnot => ?waits⟩
  case reads =>
    rw [State.tick_of_reads (hreads.2 hdue)]
    exact ⟨_, State.start_of_idle hp hw, rfl, rfl, rfl, rfl, rfl, fun hoff => if_pos hoff⟩
  case waits =>
    have hoff : s.driver.device = .offline := by
      cases hd : s.driver.device with
      | online => exact absurd (.inl hd) hnot
      | offline => rfl
      | sleeping => exact absurd hd hawake
    exact ⟨_, State.tick_of_wait hawake (mt hreads.1 hnot), rfl, hoff, hnone⟩

/-- Settles O50: the tracker writes nothing that the declaration of Offline reads, and the declaration has three cases. -/
theorem offlineDeclaredOnce : Obligations.OfflineDeclaredOnce := by
  intro s r hp hread ho threshold silent
  rw [State.hostStep_collect_read hp hread, State.collectRead_of_frameFail ho]
  let emits := Config.reportsNow s.free
  let tracked := s.driver.failureReported s.cfg s.now emits r.status
  have hsilent : tracked.silent s.cfg s.now = true ↔ silent := by
    rw [Driver.failureReported_silent]
    exact Driver.silent_iff
  have hdevice : tracked.device = s.driver.device := Driver.failureReported_device ..
  have hgate : tracked.gate = s.driver.gate := Driver.failureReported_gate ..
  have hgood : tracked.lastGoodFrame = s.driver.lastGoodFrame := Driver.failureReported_lastGoodFrame ..
  have hsignalled : (tracked.goOffline r.status).gate = s.driver.gate ++ [.unavailable] := by
    rw [← hgate]
    rfl
  rcases tracked.declareOffline_cases s.cfg s.now r with
    ⟨hheard, e⟩ | ⟨hquiet, hoff, retry, e⟩ | ⟨hquiet, hon, retry, e⟩ <;> rw [e]
  · exact ⟨_, rfl, rfl, rfl, rfl, hgood, ⟨emits, rfl, rfl, rfl, rfl⟩,
      fun h => absurd (hsilent.2 h) hheard, fun _ => ⟨hdevice, hgate⟩⟩
  · exact ⟨_, rfl, rfl, rfl, rfl, hgood, ⟨emits, rfl, rfl, rfl, rfl⟩,
      fun _ => ⟨hoff, hgate.trans (if_pos (hdevice ▸ hoff)).symm⟩, fun h => absurd (hsilent.1 hquiet) h⟩
  · exact ⟨_, rfl, rfl, rfl, rfl, hgood, ⟨emits, rfl, rfl, rfl, rfl⟩,
      fun _ => ⟨rfl, hsignalled.trans (if_neg (hdevice ▸ hon)).symm⟩,
      fun h => absurd (hsilent.1 hquiet) h⟩

/-- Settles O51: the host left is written out, on Pass and on any other result; the clock's laws judge the window opened. -/
theorem sleepAndWakeOutcomes : Obligations.SleepAndWakeOutcomes := by
  intro s r hp ho
  refine ⟨fun hsleep => ?sleep, fun hwake => ?wake⟩
  case sleep =>
    rw [State.hostStep_collect_sleep hp hsleep, State.collectSleep_of_cmd ho]
    by_cases hr : r = .pass
    · subst hr
      exact ⟨_, rfl, rfl, rfl, rfl, rfl, rfl, fun _ => ⟨rfl, rfl⟩, fun h => absurd rfl h⟩
    · rw [if_neg hr]
      exact ⟨_, rfl, rfl, rfl, rfl, rfl, rfl, fun h => absurd h hr, fun _ => ⟨rfl, rfl⟩⟩
  case wake =>
    rw [State.hostStep_collect_wake hp hwake, State.collectWake_of_cmd ho]
    by_cases hr : r = .pass
    · subst hr
      exact ⟨_, rfl, rfl, rfl, rfl, rfl, fun _ => ⟨rfl, rfl, Driver.readsThisTick_of_cleared rfl rfl s.cfg,
        fun hlen _ hms => Driver.inGrace_before_deadline rfl hlen hms, Driver.inGrace_at_deadline rfl⟩,
        fun h => absurd rfl h⟩
    · rw [if_neg hr]
      exact ⟨_, rfl, rfl, rfl, rfl, rfl, fun h => absurd h hr, fun _ => ⟨rfl, rfl, rfl⟩⟩

/-- Settles O52, from the laws of the tracker; the second half by induction on the failures. -/
theorem reportsRateLimited : Obligations.ReportsRateLimited := by
  refine ⟨fun cfg now emits status d => ?_,
    fun cfg t d failures hlog hrecent => Driver.reports_of_recent_report hrecent hlog⟩
  dsimp only
  rw [← Driver.reportAllowed_iff]
  exact ⟨d.record_window_of_goesOn cfg now emits status, d.record_window_of_over cfg now emits status,
    d.record_reports cfg now emits status, d.record_no_report cfg now emits status, d.record_frame cfg now emits status⟩

/-- Settles O47: the tick writes the host's software only. -/
theorem sleepingTickReadsNothing : Obligations.SleepingTickReadsNothing := by
  intro s hfree hasleep
  obtain ⟨-, hnone, htick⟩ := State.hostStep_tick_of_free hfree
  rw [htick, State.tick_of_sleeping hasleep, Driver.sleepingTick_eq]
  exact ⟨_, rfl, rfl, hasleep, hnone, rfl, rfl, rfl⟩

/-- Settles O49: the host takes the reading, whatever its class. -/
theorem goodFrameGoesOnline : Obligations.GoodFrameGoesOnline := by
  intro s d st tc a hp hread ho
  rw [State.hostStep_collect_read hp hread, State.collectRead_of_reading ho]
  exact ⟨_, rfl, rfl, rfl, rfl, rfl, rfl, fun hd => if_neg hd⟩

end Sys2Proof.Machine
end

section
/-! SUPPORT. What a turn of the Clock adds to an age, and so to the block's `elapsed` (R130, R131). -/

namespace Sys2Proof

/-- An age grows, on the clock's own circle, by what the clock is moved on, wherever the clock stood (R130). -/
theorem timeSince_advance (width now ms t : Nat) :
    timeSince width ((now + ms) % 2 ^ width) t = (timeSince width now t + ms) % 2 ^ width := by
  rw [timeSince, timeSince, Nat.mod_add_mod, Nat.mod_add_mod, Nat.add_right_comm]

end Sys2Proof

namespace Sys2Proof.Machine

theorem State.elapsed_clock (s : State) (ms : Nat) :
    (s.clock ms).elapsed = (s.elapsed + ms) % 2 ^ s.cfg.nowWidth :=
  timeSince_advance s.cfg.nowWidth s.now ms s.t0

end Sys2Proof.Machine
end

section
/-! The statements of the family 60_exceptions.md. -/

namespace Sys2Proof.Machine

/-- Settles O34: ages are right and additive modulo the clock's circle, and the step is the Clock's turn. -/
theorem elapsedAcrossWrap : Obligations.ElapsedAcrossWrap := by
  refine ⟨fun width t0 d h => ?age, fun s ms => ?elapsed, fun s ms rest hs => ?turn⟩
  case age => exact timeSince_add width t0 h
  case elapsed => exact s.elapsed_clock ms
  case turn =>
    rw [step_of_cons hs]
    rfl

end Sys2Proof.Machine
end

section
/-! The statements of the family 70_reset_and_hazards.md. -/

namespace Sys2Proof.Machine

/-- Settles O36: R34's values and the restarted host are written without a look at `PHASE`; the configuration, the clock
and the rest of the schedule are kept. -/
theorem resetInputEffect : Obligations.ResetInputEffect := by
  intro s rest hs
  have hstep : step s = .next (State.resetInput { s with schedule := rest }) := step_of_cons hs
  exact ⟨_, hstep, rfl, rfl, State.resetInput_txq _, rfl, rfl, State.resetInput_cfg _, rfl, rfl⟩

end Sys2Proof.Machine
end
